-- ==== Sys2Proof/Word.lean ====
section
/-!
DEFINITION. The word types of the machine: 16-bit registers (R7), bytes of data space (R49), 24-bit
program words (R110) and 24-bit program addresses (R23).
-/

namespace Sys2Proof

/-- A 16-bit register or data word (R7). -/
abbrev Word := BitVec 16

/-- A byte of data space (R49). -/
abbrev Byte := BitVec 8

/-- A 24-bit program word: an instruction word or a vector slot (R110, R111). -/
abbrev ProgWord := BitVec 24

/-- A program address, the width of the program counter (R23). -/
abbrev ProgAddr := BitVec 24

end Sys2Proof
end

