-- ==== Sys2Proof/Config.lean ====
section
/-!
DEFINITION. What a device fixes (R6: the parameters of the family, plain data that every state carries
unchanged) and the values that the spec leaves open (`draw`, R10: constants with no body).
-/

namespace Sys2Proof

/-! ## Fixed by the source -/

/-- The lowest legal Stack Pointer value and W15 at reset (R6 `STACK_BASE`, R20, R184). -/
def stackBase : Word := 0x1000#16

/-- What an unlisted data-space byte reads as.
DESIGN CHOICE (log entry 2), unsafe: the spec states no content of RAM that nothing has written (R293). -/
def unwrittenByte : Byte := 0#8

/-- What an unlisted program word reads as: the unprogrammed state of program memory, all ones.
PRESUMED (log entry 3), unsafe: R44 and R39 give all ones for unprogrammed Configuration bits only. -/
def unprogrammedWord : ProgWord := 0xFFFFFF#24

/-! ## Values the spec leaves open

Each is a constant without a body: no proof can see what it is.  Each is applied to the counter
`State.draws`, which every draw advances, so that two draws need not agree. -/

/-- A drawn 16-bit value (R10 `draw`; R81, R227, R293, U9, U12, U17). -/
opaque Config.freeWord : Nat → Word

/-- A drawn bit, also the acknowledge choice of R224 (R190, R203, R133, R293). -/
opaque Config.freeBit : Nat → Bool

/-- A drawn program word: what the vector fetch reads from unimplemented program memory (U24). -/
opaque Config.freeProgWord : Nat → ProgWord

/-- Drawn contents of RAM after a device Reset (R60, R293: not stated). -/
opaque Config.freeRam : Nat → List (Word × Byte)

/-- The program address that the two words popped by `RETURN` stand for (R139: "the stacked format for a
call is outside DOC0"): the word popped first, then the word popped second. -/
opaque Config.returnAddress : Word → Word → ProgAddr

/-- The bits of RCON other than TRAPR, which the source does not describe (R41). -/
opaque Config.rconOtherBits : Nat → Word

/-! ## The device -/

/-- How `RETURN` reads the two words it pops (R139). -/
inductive ReturnFormat where
  /-- As the source leaves it: `Config.returnAddress` of the two words. -/
  | unstated
  /-- PC<22:16> in bits 6:0 of the word popped first and PC<15:1> in bits 15:1 of the other, where the
  exception frame of R229 has them.  PRESUMED (log entry 20). -/
  | asFrame
  deriving DecidableEq, Repr

/-- Auxiliary Flash of a device that has it (R6 `HAS_AUXFLASH`, `AUXVEC`; R94, R165, R295, D30). -/
structure AuxFlash where
  /-- The first program address of Auxiliary Flash. -/
  low : Nat
  /-- The last program address of Auxiliary Flash. -/
  high : Nat
  /-- `AUXVEC`, the address of the Auxiliary Interrupt Vector. -/
  vector : ProgAddr
  /-- The reset address, where the device sets the Reset location to Auxiliary Flash (R295). -/
  resetAt : Option ProgAddr
  deriving DecidableEq, Repr

/-- `cycles(i)` of R6 and D12, without stalls, for each instruction whose count the source does not give.
`RETFIE` is not here: R316 fixes it at 3. -/
structure CycleTable where
  nop : Nat
  goto : Nat
  ret : Nat
  bra : Nat
  disi : Nat
  reset : Nat
  pwrsav : Nat
  deriving DecidableEq, Repr

/-- The parameters of R6, with the launch constants FALTREG (R39), FSEC<15> (R43) and BSLIM (R44). -/
structure Device where
  /-- `NIRQ`: interrupt vectors 0 .. NIRQ-1 can be implemented. -/
  nirq : Nat
  /-- Vectors below `nirq` that the device does not implement (`IMPL`). -/
  absent : List Nat
  /-- `NEXTINT`: the number of external interrupt pins. -/
  nextint : Nat
  /-- `EXTIRQ`: the vector of pin INTi at place i. -/
  extIrq : List Nat
  /-- `HAS_AIVT`. -/
  hasAivt : Bool
  /-- `AIVT_CFG`: FSEC<15> is in the state that allows the AIVT (R43). -/
  aivtCfg : Bool
  /-- BSLIM<12:0>, the Boot Segment limit field as stored (R44). -/
  bslim : BitVec 13
  /-- Auxiliary Flash, if the device has it. -/
  auxFlash : Option AuxFlash
  /-- `HAS_ALTW`: the device has Alternate Working register sets. -/
  hasAltW : Bool
  /-- FALTREG as programmed; CTXT1 is bits 2:0, CTXT2 is bits 6:4 (R39). -/
  faltreg : Word
  /-- `HAS_DSP`. -/
  hasDsp : Bool
  /-- DIV0ERR is implemented although the device has no accumulators.  R6, R186 and R188 speak for it, the range of R29
  against it, and 90_conflicts.md does not rule, so it is a parameter of the model's own (DESIGN CHOICE, log entry
  12).  It changes nothing on a device with `HAS_DSP`. -/
  div0errWithoutDsp : Bool
  /-- `HAS_DMA`. -/
  hasDma : Bool
  /-- `HAS_USB`. -/
  hasUsb : Bool
  /-- `HAS_APLL`. -/
  hasApll : Bool
  /-- `PROG_IMPL`: the implemented program addresses, as ranges (first, last). -/
  progRanges : List (Nat × Nat)
  /-- `DATA_IMPL`: the implemented data addresses, as ranges (first, last). -/
  dataRanges : List (Nat × Nat)
  /-- The data addresses that are Y space for the MAC class (R92), as ranges. -/
  yRanges : List (Nat × Nat)
  /-- `GST_LEVEL` is 8 where true and the default 9 where false (R180, D3). -/
  gstAtEight : Bool
  /-- `SKID_MAX` (R224, D5). -/
  skidMax : Nat
  /-- `cycles(i)`. -/
  cycles : CycleTable
  /-- A CPU write to unimplemented data space raises the address error (U10, the default is true). -/
  unimplWriteTraps : Bool
  /-- The DMAC error trap reads AIVT offset 0x00000E like any other slot (U3; the default is false). -/
  aivtDmacSlot : Bool
  /-- How `RETURN` reads the words it pops (R139). -/
  returnFormat : ReturnFormat
  deriving DecidableEq, Repr

/-- An address lies in one of the ranges. -/
def inRanges (rs : List (Nat × Nat)) (a : Nat) : Bool :=
  rs.any fun r => decide (r.1 ≤ a) && decide (a ≤ r.2)

/-- The greatest number of interrupt vectors, 246 (R6, R88). -/
def maxIrq : Nat := 246

/-- `IMPL(k)` (R6): interrupt vector k is implemented. -/
def Device.impl (d : Device) (k : Nat) : Bool :=
  decide (k < d.nirq) && decide (k < maxIrq) && !d.absent.contains k

/-- The word whose bit j is `p j`, for the bits below the second argument. -/
def bitsBelow (p : Nat → Bool) : Nat → Word
  | 0 => 0#16
  | j + 1 => bitsBelow p j ||| (if p j then 1#16 <<< j else 0#16)

/-- The implemented bits of IFSx and IECx: bit j belongs to vector 16x + j (R35, R36, D6). -/
def Device.flagMask (d : Device) (x : Nat) : Word :=
  bitsBelow (fun j => d.impl (16 * x + j)) 16

/-- The implemented bits of IPCx: nibble j belongs to vector 4x + j and its bit 3 is unused (R37, D6). -/
def Device.ipcMask (d : Device) (x : Nat) : Word :=
  bitsBelow (fun b => d.impl (4 * x + b / 4) && decide (b % 4 < 3)) 16

/-- The number of Boot Segment pages, the one's complement of the stored field (R44). -/
def Device.bsPages (d : Device) : Nat := 0x1FFF - d.bslim.toNat

/-- The device of State.reset: the one that 95_test_vectors.md Part 3 starts its programs on (no AIVT,
program memory 0x000000-0x000FFF, data memory 0x0000-0x1FFF, its cycle counts), with every other
optional unit present and the Configuration registers unprogrammed.
DESIGN CHOICE (log entry 1), unsafe: R6 leaves every one of these to the device. -/
def Device.default : Device where
  nirq := 246
  absent := []
  nextint := 5
  extIrq := [0, 1, 2, 3, 4]
  hasAivt := false
  aivtCfg := false
  bslim := 0x1FFF#13
  auxFlash := none
  hasAltW := true
  faltreg := 0xFFFF#16
  hasDsp := true
  div0errWithoutDsp := true
  hasDma := true
  hasUsb := true
  hasApll := true
  progRanges := [(0, 0xFFF)]
  dataRanges := [(0, 0x1FFF)]
  yRanges := []
  gstAtEight := false
  skidMax := 2
  cycles := { nop := 1, goto := 2, ret := 1, bra := 2, disi := 1, reset := 1, pwrsav := 1 }
  unimplWriteTraps := true
  aivtDmacSlot := false
  returnFormat := .unstated

end Sys2Proof
end

