-- ==== Sys2Proof/Machine/State.lean ====
section
/-!
DEFINITION. The state of the machine as plain data (10_state.md), what the outside world does at a
boundary (R160), the reasons a step can stop, and the state after Reset (R60).
-/

namespace Sys2Proof.Machine

/-- `power` (R55). -/
inductive Power where
  | run
  | idle
  | sleep
  deriving DecidableEq, Repr

/-- `wctx`: the Working register set in use (R22); 0 is the default set. -/
inductive WSet where
  | default
  | alt1
  | alt2
  deriving DecidableEq, Repr

/-- The hard trap events since the previous boundary, one bit for each hard trap (R217). -/
structure HardEvents where
  /-- Oscillator failure (R199). -/
  osc : Bool
  /-- Address error (R200). -/
  addr : Bool
  /-- Generic hard trap (R202, R203). -/
  gen : Bool
  deriving DecidableEq, Repr

/-- No hard trap event. -/
def HardEvents.none : HardEvents := { osc := false, addr := false, gen := false }

/-- Some hard trap event. -/
def HardEvents.any (e : HardEvents) : Bool := e.osc || e.addr || e.gen

/-- The registers that software names (D7: the model names a register, it knows no address).  W15 is a
Working register and FALTREG a Configuration register; OSCCON.CF has no position (R42). -/
inductive Sfr where
  | sr
  | corcon
  | intcon1
  | intcon2
  | intcon3
  | intcon4
  | ifs (x : Fin 16)
  | iec (x : Fin 16)
  | ipc (x : Fin 62)
  | inttreg
  | faltreg
  | disicnt
  | splim
  | rcon
  deriving DecidableEq, Repr

/-! ## What the environment does (R160)

The agents' actions are inputs of the step: `State.inputs` lists, boundary by boundary, what they do. -/

/-- One action of an environment agent at a boundary (R160). -/
inductive EnvAction where
  /-- A peripheral raises the request of interrupt vector k (R160 item 2, R35). -/
  | irq (k : Nat)
  /-- The oscillator agent detects an oscillator failure (R199). -/
  | oscFail
  /-- The oscillator module, which owns OSCCON.CF otherwise, writes it (R42). -/
  | clockFail (v : Bool)
  /-- The USB PLL loses lock (R197). -/
  | usbPllLoss
  /-- The auxiliary PLL loses lock (R197). -/
  | auxPllLoss
  /-- The NVM controller reports an address error (R193). -/
  | nvmAddressError
  /-- The DMA controller reads a data address (R195). -/
  | dmaRead (a : Word)
  /-- The DMA controller writes a byte; `coincident` where the write coincides with the CPU's writes
  since the previous boundary (R97, R191, R195). -/
  | dmaWrite (a : Word) (v : Byte) (coincident : Bool)
  /-- The USB module reads a data address (R194). -/
  | usbRead (a : Word)
  /-- The USB module writes a byte (R194). -/
  | usbWrite (a : Word) (v : Byte)
  /-- The USB module accesses the 512 bytes of the Buffer Descriptor Table at this start address (R194). -/
  | usbBdt (start : BitVec 32)
  /-- The reset logic resets the device for an external cause (R290). -/
  | reset
  deriving DecidableEq, Repr

/-- An accumulator event that the CPU's arithmetic reports (R145, R187). -/
inductive AccEvent where
  /-- Overflow of Accumulator A: a carry-out from bit 31. -/
  | overflowA
  /-- Overflow of Accumulator B. -/
  | overflowB
  /-- Catastrophic overflow of Accumulator A: a carry-out from bit 39. -/
  | catastrophicA
  /-- Catastrophic overflow of Accumulator B. -/
  | catastrophicB
  deriving DecidableEq, Repr

/-- A data-space access of an instruction outside the table (R81, R82, R86, R90). -/
structure DataAccess where
  /-- A write, otherwise a read. -/
  write : Bool
  /-- A word access, otherwise a byte access.  A bit-manipulation instruction in indirect mode makes a
  word access (R82). -/
  word : Bool
  /-- The effective address. -/
  ea : Word
  /-- The value a write stores (bits 7:0 for a byte). -/
  value : Word
  /-- `some wraps` where the address is generated using W15, `wraps` where forming it carries (R90). -/
  viaW15 : Option Bool
  deriving DecidableEq, Repr

/-- What an instruction outside the opcode table does to the state of this spec (rules R140-R143, R26,
R145; N21: such an instruction is an environment step that may raise the named trap causes). -/
inductive CpuEffect where
  /-- `SwWrite`: a software write of the bits in `mask` of a register (R26, R311). -/
  | sfrWrite (r : Sfr) (mask v : Word)
  /-- A write of W15 (R20). -/
  | w15Write (v : Word)
  /-- A data-space access. -/
  | access (a : DataAccess)
  /-- An access with Paged Addressing through the given dsr/dsw page (R93). -/
  | paged (page : Word)
  /-- An operand fetch of a MAC-class instruction from X space or Y space (R92), a word access (R10). -/
  | macFetch (ySpace : Bool) (ea : Word)
  /-- The first iteration of a divide under `REPEAT` with this divisor (R140). -/
  | divide (divisor : Word)
  /-- `SFTAC` by this count (R141). -/
  | sftac (count : Int)
  /-- `DO` (R142). -/
  | doLoop
  /-- The innermost `DO` loop ends (R142: the DO level is automatically updated). -/
  | doEnd
  /-- An accumulator event (R145). -/
  | acc (e : AccEvent)
  /-- The CPU writes the SR bits in `mask`, other than IPL<2:0> (R25: their meaning is the CPU's). -/
  | status (mask v : Word)
  /-- The CPU opens or closes a stack frame: CORCON.SFA (R27). -/
  | stackFrame (active : Bool)
  deriving DecidableEq, Repr

/-- One execution of an instruction outside the opcode table. -/
structure Foreign where
  /-- It occupies two program words, otherwise one (R110). -/
  twoWords : Bool
  /-- Its instruction cycles, stalls included; counted as at least 1 (R6). -/
  cycles : Nat
  /-- What it does, in order. -/
  effects : List CpuEffect
  /-- Where it transfers control, if it does. -/
  target : Option ProgAddr
  deriving DecidableEq, Repr

/-- What the outside world does at one instruction boundary. -/
structure Boundary where
  /-- The actions of the environment agents, in order (R160). -/
  actions : List EnvAction
  /-- How many of the actions come before the sample of the pins; the others come after it.  R161 item 1 and D18
  leave any order, so the inputs choose it. -/
  pinsAfter : Nat
  /-- The sampled levels of the external interrupt pins; `none` where no pin changed (R240). -/
  pins : Option (BitVec 5)
  /-- Stall cycles added to the instruction or the exception process of this step (R132, R318, R319). -/
  stalls : Nat
  /-- What the instruction at the program counter does, where its word is outside the table. -/
  foreign : Option Foreign
  deriving DecidableEq, Repr

/-- A boundary at which nothing happens outside the CPU. -/
def Boundary.quiet : Boundary := { actions := [], pinsAfter := 0, pins := none, stalls := 0, foreign := none }

/-! ## State -/

/-- Everything the spec gives the machine (10_state.md), the two memories, the device's parameters, the
inputs still to come and the model's own bookkeeping. -/
structure State where
  /-- The program counter; while an instruction executes, the next instruction's address (R23, R24). -/
  pc : ProgAddr
  /-- W15, the Stack Pointer (R20). -/
  w15 : Word
  /-- SPLIM, the Stack Limit register (R21). -/
  splim : Word
  /-- `splim_enabled` (R52). -/
  splimEnabled : Bool
  /-- SR, the CPU STATUS register (R25). -/
  sr : Word
  /-- CORCON, the Core Control register (R27). -/
  corcon : Word
  /-- `wctx` (R22). -/
  wctx : WSet
  /-- INTCON1 (R28). -/
  intcon1 : Word
  /-- INTCON2 as stored: its DISI bit is a mirror and is kept 0 here (R30, R31). -/
  intcon2 : Word
  /-- INTCON3 (R33). -/
  intcon3 : Word
  /-- INTCON4 (R34). -/
  intcon4 : Word
  /-- IFSx (R35). -/
  ifs : Vector Word 16
  /-- IECx (R36). -/
  iec : Vector Word 16
  /-- IPCx (R37). -/
  ipc : Vector Word 62
  /-- INTTREG (R38). -/
  inttreg : Word
  /-- DISICNT, a 14-bit counter (R40). -/
  disicnt : BitVec 14
  /-- `disi_active` (R51). -/
  disiActive : Bool
  /-- RCON.TRAPR (R41). -/
  trapr : Bool
  /-- OSCCON.CF (R42). -/
  clockFail : Bool
  /-- `hard_hold` (R53, R198). -/
  hardHold : Bool
  /-- The hard trap events since the previous boundary (R217). -/
  hardEvents : HardEvents
  /-- `power` (R55). -/
  power : Power
  /-- `pinprev` (R56). -/
  pinprev : BitVec 5
  /-- `gie_eff` (R57). -/
  gieEff : Bool
  /-- `skid` (R58). -/
  skid : Nat
  /-- Instruction cycles spent, an observable that no rule reads (R313). -/
  cycleCount : Nat
  /-- Data space: bytes by address, in canonical form (R49). -/
  data : List Host.Cell
  /-- Program memory: 24-bit words by program address, in canonical form (R48). -/
  prog : List (Nat × ProgWord)
  /-- The device's parameters and Configuration registers, constant during a run (R6, R39, R43, R44, R50). -/
  dev : Device
  /-- What the outside world does at the coming boundaries; where the list ends, nothing (R160). -/
  inputs : List Boundary
  /-- The data addresses the CPU wrote since the previous boundary: the model's own (R97). -/
  cpuWrites : List Word
  /-- How many values have been drawn: the model's own (R10 `draw`). -/
  draws : Nat
  deriving DecidableEq, Repr

/-- Why the machine stops and shows no next state. -/
inductive Fault where
  /-- A hard trap event at the level the CPU is already at; raised by the hard trap resolution of a step
  (R217, U19).  Safe: the spec gives no outcome. -/
  | hardTrapAtOwnLevel
  /-- A DMAC error trap is acknowledged while the AIVT is selected, whose slot 0x00000E is Reserved;
  raised by the vector fetch of a step (R164, U3).  Safe: the spec stops here by default. -/
  | dmacVectorReserved
  deriving DecidableEq, Repr

/-- Why the model has no meaning for what the step would run. -/
inductive Refusal where
  /-- The instruction has no meaning in the model yet; raised by the dispatch. Safe. -/
  | notModelled (mnemonic : String)
  /-- The fetched word is of no instruction of the opcode table and the inputs do not say what it does;
  raised by the fetch (R115, R117).  Safe: the spec refuses such a word. -/
  | outsideTable (word : ProgWord)
  deriving DecidableEq, Repr

/-! ## Reset values (R60) -/

/-- The reset values of R60 on a given device, with nothing in either memory and no input to come.
Where R60 states no value the value is the model's: SPLIM, RCON.TRAPR, OSCCON.CF and `pinprev` are zero
(DESIGN CHOICE, log entries 4, 5 and 6), RAM and program memory list nothing (log entries 2 and 3). -/
def State.resetOn (d : Device) : State where
  pc := match d.auxFlash with
    | some f => f.resetAt.getD 0#24 &&& 0x7FFFFE#24
    | none => 0#24
  w15 := stackBase
  splim := 0#16
  splimEnabled := false
  sr := 0x0000#16
  corcon := 0x0020#16
  wctx := .default
  intcon1 := 0x0000#16
  intcon2 := 0x8000#16
  intcon3 := 0x0000#16
  intcon4 := 0x0000#16
  ifs := Vector.replicate 16 0x0000#16
  iec := Vector.replicate 16 0x0000#16
  ipc := Vector.ofFn fun x : Fin 62 => 0x4444#16 &&& d.ipcMask x.val
  inttreg := 0x0000#16
  disicnt := 0#14
  disiActive := false
  trapr := false
  clockFail := false
  hardHold := false
  hardEvents := .none
  power := .run
  pinprev := 0#5
  gieEff := true
  skid := 0
  cycleCount := 0
  data := []
  prog := []
  dev := d
  inputs := []
  cpuWrites := []
  draws := 0

/-- The machine right after reset (R60, R292). -/
def State.reset : State := State.resetOn Device.default

end Sys2Proof.Machine
end

