-- ==== Sys2Proof/Machine/Memory.lean ====
section
/-!
DEFINITION. A sparse memory as a list of (address, content) pairs in canonical form: addresses strictly
rising, and no entry equal to what an unlisted address reads as.  Data space holds bytes (R49), program
memory 24-bit words (R48).
-/

namespace Sys2Proof.Machine

/-- What address `a` reads as, where unlisted addresses read as `d`. -/
def memRead {w : Nat} (d : BitVec w) : List (Nat × BitVec w) → Nat → BitVec w
  | [], _ => d
  | (b, x) :: t, a => if b = a then x else memRead d t a

/-- The list with `v` entered at `a`. -/
def memInsert {w : Nat} (a : Nat) (v : BitVec w) : List (Nat × BitVec w) → List (Nat × BitVec w)
  | [] => [(a, v)]
  | (b, x) :: t =>
    if a < b then (a, v) :: (b, x) :: t
    else if a = b then (a, v) :: t
    else (b, x) :: memInsert a v t

/-- The list without the entry at `a`. -/
def memErase {w : Nat} (a : Nat) : List (Nat × BitVec w) → List (Nat × BitVec w)
  | [] => []
  | (b, x) :: t => if b = a then memErase a t else (b, x) :: memErase a t

/-- The memory with `v` written at `a`; writing what an unlisted address reads as removes the entry. -/
def memWrite {w : Nat} (d : BitVec w) (m : List (Nat × BitVec w)) (a : Nat) (v : BitVec w) :
    List (Nat × BitVec w) :=
  if v = d then memErase a m else memInsert a v m

/-- The canonical form, with every listed address at least `lo`. -/
def memWfFrom {w : Nat} (d : BitVec w) : Nat → List (Nat × BitVec w) → Bool
  | _, [] => true
  | lo, (a, x) :: t => decide (lo ≤ a) && decide (x ≠ d) && memWfFrom d (a + 1) t

/-- The canonical form of a memory whose unlisted addresses read as `d`. -/
def memWf {w : Nat} (d : BitVec w) (m : List (Nat × BitVec w)) : Bool := memWfFrom d 0 m

/-- Data space is in canonical form. -/
def Memory.wf (m : List Host.Cell) : Bool := memWf unwrittenByte m

/-- Program memory is in canonical form. -/
def ProgMemory.wf (m : List (Nat × ProgWord)) : Bool := memWf unprogrammedWord m

/-- The data space with these contents and no other. -/
def memOfBytes : List (Word × Byte) → List Host.Cell
  | [] => []
  | (a, x) :: t => memWrite unwrittenByte (memOfBytes t) a.toNat x

end Sys2Proof.Machine
end

