-- ==== Sys2Proof/Machine/Flags.lean ====
section
/-!
DEFINITION. The named fields of the status and control registers (10_state.md), the CPU priority level
(R166), the traps with their levels and request flags (R180, R181), and `raise`: what the detection of
each trap cause writes (R184-R203).
-/

namespace Sys2Proof.Machine

/-! ## Bit fields -/

/-- The word with the bits of `m` all set or all cleared. -/
def setBits (w m : Word) (b : Bool) : Word := if b then w ||| m else w &&& ~~~m

/-- The word with SR<7:5> or any 3-bit field at bit 5 replaced. -/
def withIpl (w : Word) (v : BitVec 3) : Word := (w &&& 0xFF1F#16) ||| (v.setWidth 16 <<< 5)

/-- SR.IPL, SR<7:5> (R25). -/
def State.ipl (s : State) : BitVec 3 := s.sr.extractLsb' 5 3

/-- CORCON.IPL3 (R27). -/
def State.ipl3 (s : State) : Bool := s.corcon.getLsbD 3

/-- CORCON.SFA (R27). -/
def State.sfa (s : State) : Bool := s.corcon.getLsbD 2

/-- CORCON.VAR (R27, R317). -/
def State.var (s : State) : Bool := s.corcon.getLsbD 15

/-- CORCON.DL<2:0>, the `DO` level (R27, R142). -/
def State.dl (s : State) : BitVec 3 := s.corcon.extractLsb' 8 3

/-- The CPU priority level, IPL3 ++ IPL<2:0> (R166). -/
def State.cpl (s : State) : BitVec 4 := (BitVec.ofBool s.ipl3 ++ s.ipl : BitVec 4)

/-- INTCON1.NSTDIS (R28). -/
def State.nstdis (s : State) : Bool := s.intcon1.getLsbD 15

/-- INTCON2.GIE (R30). -/
def State.gie (s : State) : Bool := s.intcon2.getLsbD 15

/-- INTCON2.SWTRAP (R32). -/
def State.swtrap (s : State) : Bool := s.intcon2.getLsbD 13

/-- INTCON2.AIVTEN (R30). -/
def State.aivten (s : State) : Bool := s.intcon2.getLsbD 8

/-- "DISI in effect": what INTCON2.DISI reads (R134). -/
def State.disiInEffect (s : State) : Bool := s.disiActive && decide (s.disicnt ≠ 0#14)

/-- `gie_on`: interrupts are globally enabled at this boundary (R175). -/
def State.gieOn (s : State) : Bool := s.gie || s.gieEff

/-! ## Implemented bits (D24) -/

/-- The device implements INTCON1.DIV0ERR: with `HAS_DSP` every one does; without it the device says (R29 against
R186 and R188; DESIGN CHOICE, log entry 12). -/
def Device.hasDiv0err (d : Device) : Bool := d.hasDsp || d.div0errWithoutDsp

/-- The implemented bits of INTCON1 (R28).  Without `HAS_DSP` bits 14:7 are absent, and bit 6 where the device does not
keep it; without `HAS_DMA` bit 5 is (R29; log entry 12). -/
def intcon1Impl (d : Device) : Word :=
  0x801E#16 ||| (if d.hasDsp then 0x7F80#16 else 0#16) ||| (if Device.hasDiv0err d then 0x0040#16 else 0#16) |||
    (if d.hasDma then 0x0020#16 else 0#16)

/-- The implemented and stored bits of INTCON2 (R30): AIVTEN with `HAS_AIVT`, INTiEP for i < `NEXTINT`.
DISI is a mirror (R31). -/
def intcon2Impl (d : Device) : Word :=
  0xA000#16 ||| (if d.hasAivt then 0x0100#16 else 0#16) ||| bitsBelow (fun i => decide (i < d.nextint)) 5

/-- The implemented bits of INTCON3 (R33, USBPLL at bit 1 by 90_conflicts.md C9; log entry 11). -/
def intcon3Impl (d : Device) : Word :=
  0x0110#16 ||| (if d.hasUsb then 0x0042#16 else 0#16) ||| (if d.hasDma then 0x0020#16 else 0#16) |||
    (if d.hasApll then 0x0001#16 else 0#16)

/-! ## Interrupt flags, enables and levels (R35-R37, D6) -/

/-- Bit k of a bank of flag or enable registers: bit k mod 16 of register k div 16. -/
def flagAt {n : Nat} (v : Vector Word n) (k : Nat) : Bool := (v[k / 16]?.getD 0#16).getLsbD (k % 16)

/-- `IF[k]`. -/
def State.flag (s : State) (k : Nat) : Bool := flagAt s.ifs k

/-- `IE[k]`. -/
def State.enable (s : State) (k : Nat) : Bool := flagAt s.iec k

/-- `IP[k]`: nibble k mod 4 of IPC register k div 4. -/
def State.level (s : State) (k : Nat) : BitVec 3 := (s.ipc[k / 4]?.getD 0#16).extractLsb' (4 * (k % 4)) 3

/-- Hardware sets `IF[k]` (R35); the flag of a vector that is not implemented stays 0 (U2, D24). -/
def setFlag (k : Nat) (s : State) : State :=
  { s with ifs :=
      if s.dev.impl k then
        s.ifs.setIfInBounds (k / 16) ((s.ifs[k / 16]?.getD 0#16) ||| (1#16 <<< (k % 16)))
      else s.ifs }

/-! ## Traps (R180, R181) -/

/-- The seven traps, in the order of their vectors (R180). -/
inductive Trap where
  | oscillator
  | address
  | genericHard
  | stack
  | math
  | dmac
  | genericSoft
  deriving DecidableEq, Repr

/-- The fixed level of a trap (R180). -/
def Trap.level (d : Device) : Trap → BitVec 4
  | .oscillator => 15#4
  | .address => 14#4
  | .genericHard => 13#4
  | .stack => 12#4
  | .math => 11#4
  | .dmac => 10#4
  | .genericSoft => if d.gstAtEight then 8#4 else 9#4

/-- The vector number of a trap (R162). -/
def Trap.vector : Trap → Nat
  | .oscillator => 0
  | .address => 1
  | .genericHard => 2
  | .stack => 3
  | .math => 4
  | .dmac => 5
  | .genericSoft => 6

/-- Hard traps are those of level 13 to 15 (R198). -/
def Trap.hard : Trap → Bool
  | .oscillator => true
  | .address => true
  | .genericHard => true
  | .stack => false
  | .math => false
  | .dmac => false
  | .genericSoft => false

/-- The request flag of a trap: a trap is requested exactly while it is 1 (R181); for the generic traps
the OR of the implemented bits of their register (R192, R202). -/
def State.trapFlag (s : State) : Trap → Bool
  | .oscillator => s.intcon1.getLsbD 1
  | .address => s.intcon1.getLsbD 3
  | .genericHard => s.intcon4.getLsbD 0
  | .stack => s.intcon1.getLsbD 2
  | .math => s.intcon1.getLsbD 4
  | .dmac => (s.intcon1 &&& intcon1Impl s.dev).getLsbD 5
  | .genericSoft => decide (s.intcon3 &&& intcon3Impl s.dev ≠ 0#16)

/-! ## `raise` (R181: set the flags the cause names; nothing else happens here) -/

/-- Set implemented bits of INTCON1. -/
def raise1 (bits : Word) (s : State) : State :=
  { s with intcon1 := s.intcon1 ||| (bits &&& intcon1Impl s.dev) }

/-- Set implemented bits of INTCON3. -/
def raise3 (bits : Word) (s : State) : State :=
  { s with intcon3 := s.intcon3 ||| (bits &&& intcon3Impl s.dev) }

/-- The stack error trap, where `b` (R184): STKERR. -/
def raiseStackIf (b : Bool) (s : State) : State := raise1 (if b then 0x0004#16 else 0#16) s

/-- The address error trap, where `b` (R200): ADDRERR, and a hard trap event (R198, R217). -/
def raiseAddressIf (b : Bool) (s : State) : State :=
  { s with
    intcon1 := s.intcon1 ||| (if b then 0x0008#16 else 0#16)
    hardEvents := { s.hardEvents with addr := s.hardEvents.addr || b }
    hardHold := s.hardHold || b }

/-- The oscillator failure trap (R199): OSCFAIL and OSCCON.CF (R42), and a hard trap event. -/
def raiseOscillator (s : State) : State :=
  { s with
    intcon1 := s.intcon1 ||| 0x0002#16
    clockFail := true
    hardEvents := { s.hardEvents with osc := true }
    hardHold := true }

/-- Software takes the flags of hard traps from 0 to 1, which is a hard trap event (R203, R217). -/
def hardEventsIf (osc addr gen : Bool) (s : State) : State :=
  { s with
    hardEvents :=
      { osc := s.hardEvents.osc || osc, addr := s.hardEvents.addr || addr, gen := s.hardEvents.gen || gen }
    hardHold := s.hardHold || osc || addr || gen }

/-- The bits an accumulator event sets, if its enable bit is 1 (R187). -/
def accBits (s : State) : AccEvent → Word
  | .overflowA => if s.intcon1.getLsbD 10 then 0x4010#16 else 0#16
  | .overflowB => if s.intcon1.getLsbD 9 then 0x2010#16 else 0#16
  | .catastrophicA => if s.intcon1.getLsbD 8 then 0x1010#16 else 0#16
  | .catastrophicB => if s.intcon1.getLsbD 8 then 0x0810#16 else 0#16

/-- An accumulator event (R187); there is none on a device without accumulators (R186). -/
def raiseAcc (e : AccEvent) (s : State) : State := raise1 (if s.dev.hasDsp then accBits s e else 0#16) s

/-- Divide-by-zero (R188): DIV0ERR, where the device implements that bit (`Device.hasDiv0err`), and MATHERR. -/
def raiseDivideIf (b : Bool) (s : State) : State := raise1 (if b then 0x0050#16 else 0#16) s

/-- An invalid accumulator shift (R189): SFTACERR and MATHERR. -/
def raiseShiftIf (b : Bool) (s : State) : State :=
  raise1 (if b && s.dev.hasDsp then 0x0090#16 else 0#16) s

/-- The DMAC error trap (R191): DMACERR. -/
def raiseDmac (s : State) : State := raise1 0x0020#16 s

/-- `DO` stack overflow (R196): DOOVR. -/
def raiseDoOverflowIf (b : Bool) (s : State) : State := raise3 (if b then 0x0010#16 else 0#16) s

end Sys2Proof.Machine
end

