-- ==== Sys2Proof/Machine/Operands.lean ====
section
/-!
DEFINITION. The operand forms: the branch target (R114), and the registers that software names, each
with its read (R26, R31) and its software write `SwWrite` filtered by the access codes (R26).
-/

namespace Sys2Proof.Machine

/-! ## Branch target -/

/-- The target of a `BRA` whose following instruction is at `next`: next + 2 * sext_24(slit16) (R114). -/
def braTarget (next : ProgAddr) (slit16 : BitVec 16) : ProgAddr := next + (slit16.signExtend 24 <<< 1)

/-! ## Reading a register -/

/-- What software reads from a register: unimplemented bits read 0, in FALTREG 1 (R26, R39); a read has
no side effect (R87).  INTCON2.DISI is a mirror (R31, R134).  DESIGN CHOICE (log entry 43): R50 does not state how
software could read the Configuration registers; here FALTREG is read by name, and FSEC and BSLIM are not. -/
def readSfr (s : State) : Sfr → Word
  | .sr => s.sr
  | .corcon => s.corcon &&& 0xBFFF#16
  | .intcon1 => s.intcon1 &&& intcon1Impl s.dev
  | .intcon2 => (s.intcon2 &&& intcon2Impl s.dev) ||| (if s.disiInEffect then 0x4000#16 else 0#16)
  | .intcon3 => s.intcon3 &&& intcon3Impl s.dev
  | .intcon4 => s.intcon4 &&& 0x0001#16
  | .ifs x => s.ifs[x] &&& s.dev.flagMask x.val
  | .iec x => s.iec[x] &&& s.dev.flagMask x.val
  | .ipc x => s.ipc[x] &&& s.dev.ipcMask x.val
  | .inttreg => s.inttreg &&& 0x0FFF#16
  | .faltreg => s.dev.faltreg ||| 0xFF88#16
  | .disicnt => s.disicnt.setWidth 16
  | .splim => s.splim
  | .rcon => setBits (Config.rconOtherBits s.draws) 0x8000#16 s.trapr

/-! ## `SwWrite` (R26) -/

/-- A software write of the bits in `mask`: bits coded `W` take the written value, bits coded `R/C` can
only be cleared, every other bit keeps its value (R26). -/
def filteredWrite (writable clearable mask v old : Word) : Word :=
  ((old &&& ~~~(mask &&& writable)) ||| (v &&& (mask &&& writable))) &&& ~~~(mask &&& clearable &&& ~~~v)

/-- SR (R25): IPL is not changed while NSTDIS = 1 (R26, R167); SA, SB and SAB are clearable. -/
def writeSr (mask v : Word) (s : State) : State :=
  { s with sr := filteredWrite (if s.nstdis then 0x000F#16 else 0x00EF#16) 0x3400#16 mask v s.sr }

/-- CORCON (R27): IPL3 is clearable, not settable; DL and SFA are read-only. -/
def writeCorcon (mask v : Word) (s : State) : State :=
  { s with corcon := filteredWrite 0xB8F3#16 0x0008#16 mask v s.corcon }

/-- An enabled accumulator overflow status persists (R190). -/
def accPersists (s : State) : Bool :=
  (s.intcon1.getLsbD 10 && s.sr.getLsbD 15) || (s.intcon1.getLsbD 9 && s.sr.getLsbD 14)

/-- A write of 0 to MATHERR under a persisting cause, whose outcome is open (R190, D13). -/
def mathClearOpen (mask v : Word) (s : State) : Bool := mask.getLsbD 4 && !v.getLsbD 4 && accPersists s

/-- INTCON1 (R28, R29): a write that takes OSCFAIL or ADDRERR from 0 to 1 is a hard trap event (R217). -/
def writeIntcon1 (mask v : Word) (s : State) : State :=
  let plain := filteredWrite (intcon1Impl s.dev) 0#16 mask v s.intcon1
  let open_ := mathClearOpen mask v s
  let new := if open_ then setBits plain 0x0010#16 (Config.freeBit s.draws) else plain
  hardEventsIf (!s.intcon1.getLsbD 1 && new.getLsbD 1) (!s.intcon1.getLsbD 3 && new.getLsbD 3) false
    { s with intcon1 := new, draws := s.draws + open_.toNat }

/-- INTCON2 (R30-R32): DISI ignores writes; a write that takes SWTRAP from 0 to 1 sets SGHT, which is a
hard trap event (R203). -/
def writeIntcon2 (mask v : Word) (s : State) : State :=
  let new := filteredWrite (intcon2Impl s.dev) 0#16 mask v s.intcon2
  let soft := !s.intcon2.getLsbD 13 && new.getLsbD 13
  hardEventsIf false false soft
    { s with intcon2 := new, intcon4 := s.intcon4 ||| (if soft then 0x0001#16 else 0#16) }

/-- INTCON3 (R33). -/
def writeIntcon3 (mask v : Word) (s : State) : State :=
  { s with intcon3 := filteredWrite (intcon3Impl s.dev) 0#16 mask v s.intcon3 }

/-- INTCON4 (R34): a write of 1 that sets SGHT is a generic hard trap event; a write of 0 while SWTRAP
= 1 leaves SGHT open and is no event (R203, U20). -/
def writeIntcon4 (mask v : Word) (s : State) : State :=
  let plain := filteredWrite 0x0001#16 0#16 mask v s.intcon4
  let open_ := mask.getLsbD 0 && !v.getLsbD 0 && s.swtrap
  let new := if open_ then setBits plain 0x0001#16 (Config.freeBit s.draws) else plain
  hardEventsIf false false (!open_ && !s.intcon4.getLsbD 0 && new.getLsbD 0)
    { s with intcon4 := new, draws := s.draws + open_.toNat }

/-- IFSx (R35): software writes 0 or 1 to the implemented bits. -/
def writeIfs (x : Fin 16) (mask v : Word) (s : State) : State :=
  { s with ifs := s.ifs.set x.val (filteredWrite (s.dev.flagMask x.val) 0#16 mask v s.ifs[x]) }

/-- IECx (R36). -/
def writeIec (x : Fin 16) (mask v : Word) (s : State) : State :=
  { s with iec := s.iec.set x.val (filteredWrite (s.dev.flagMask x.val) 0#16 mask v s.iec[x]) }

/-- IPCx (R37): bit 3 of each nibble and nibbles with no source are not written. -/
def writeIpc (x : Fin 62) (mask v : Word) (s : State) : State :=
  { s with ipc := s.ipc.set x.val (filteredWrite (s.dev.ipcMask x.val) 0#16 mask v s.ipc[x]) }

/-- The 14 bits of DISICNT that a software write asks for (R133). -/
def disicntWritten (mask v : Word) (s : State) : BitVec 14 :=
  (filteredWrite 0x3FFF#16 0#16 mask v (s.disicnt.setWidth 16)).setWidth 14

/-- DISICNT (R133): while `DISI` is in effect the write takes effect, and 0 ends the window; otherwise
nothing is disabled and the count is 0 or the written value (U13). -/
def writeDisicnt (mask v : Word) (s : State) : State :=
  let n := disicntWritten mask v s
  let live := s.disiInEffect
  { s with
    disicnt := if live || Config.freeBit s.draws then n else 0#14
    disiActive := live && decide (n ≠ 0#14)
    draws := s.draws + (!live).toNat }

/-- SPLIM (R21): a word write enables the stack overflow check (R52). -/
def writeSplim (mask v : Word) (s : State) : State :=
  { s with
    splim := filteredWrite 0xFFFF#16 0#16 mask v s.splim
    splimEnabled := s.splimEnabled || decide (mask = 0xFFFF#16) }

/-- RCON: software writes TRAPR (R294); the other bits are no state of this spec (R41). -/
def writeRcon (mask v : Word) (s : State) : State :=
  { s with trapr := if mask.getLsbD 15 then v.getLsbD 15 else s.trapr }

/-- `SwWrite(REG, v)` of the bits in `mask` (R26, R311).  INTTREG is read-only (R38) and FALTREG is a
Configuration register, constant during a run (R39, R50). -/
def swWrite (r : Sfr) (mask v : Word) (s : State) : State :=
  match r with
  | .sr => writeSr mask v s
  | .corcon => writeCorcon mask v s
  | .intcon1 => writeIntcon1 mask v s
  | .intcon2 => writeIntcon2 mask v s
  | .intcon3 => writeIntcon3 mask v s
  | .intcon4 => writeIntcon4 mask v s
  | .ifs x => writeIfs x mask v s
  | .iec x => writeIec x mask v s
  | .ipc x => writeIpc x mask v s
  | .inttreg => s
  | .faltreg => s
  | .disicnt => writeDisicnt mask v s
  | .splim => writeSplim mask v s
  | .rcon => writeRcon mask v s

end Sys2Proof.Machine
end

