-- ==== Sys2Proof/Machine/Ops.lean ====
section
/-!
DEFINITION. The shared operations: data space (20_memory.md), the software stack with its checks (R90),
taking an exception (R225-R229, R235), the return from one (R130), the device Reset (R290) and the count
of instruction cycles (R132, R320).
-/

namespace Sys2Proof.Machine

/-! ## Memory accesses -/

/-- `DATA_IMPL(a)` (R6, R86). -/
def State.dataImpl (s : State) (a : Word) : Bool := inRanges s.dev.dataRanges a.toNat

/-- `PROG_IMPL(a)` (R6, R200).  The second half of the AIVT's page, which R89 calls no longer usable space and where
N3 assumes no code, is implemented where the device's ranges say so (DESIGN CHOICE, log entry 48). -/
def State.progImpl (s : State) (a : ProgAddr) : Bool := inRanges s.dev.progRanges a.toNat

/-- A CPU access that raises the address error trap: a misaligned word access (R81), a read of an
unimplemented address (R86), a write to one where the device takes it so (U10). -/
def accessFaults (s : State) (write word : Bool) (ea : Word) : Bool :=
  (word && ea.getLsbD 0) || (!s.dataImpl ea && (!write || s.dev.unimplWriteTraps))

/-- One byte of data space. -/
def readByte (s : State) (a : Word) : Byte := memRead unwrittenByte s.data a.toNat

/-- A word of data space, little-endian (R80, D1): the byte at the even address holds bits 7:0. -/
def readWord (s : State) (a : Word) : Word := (readByte s (a + 1) ++ readByte s a : BitVec 16)

/-- Data space with a byte stored. -/
def storeByte (m : List Host.Cell) (a : Word) (v : Byte) : List Host.Cell :=
  memWrite unwrittenByte m a.toNat v

/-- Data space with a word stored, little-endian (R80). -/
def storeWord (m : List Host.Cell) (a : Word) (v : Word) : List Host.Cell :=
  storeByte (storeByte m a (v.extractLsb' 0 8)) (a + 1) (v.extractLsb' 8 8)

/-- A CPU store of a byte, where `b`; the addresses written are kept for the collision rule (R97). -/
def cpuStoreByteIf (b : Bool) (a : Word) (v : Byte) (s : State) : State :=
  { s with
    data := if b then storeByte s.data a v else s.data
    cpuWrites := if b then a :: s.cpuWrites else s.cpuWrites }

/-- A CPU store of a word, where `b`. -/
def cpuStoreWordIf (b : Bool) (a : Word) (v : Word) (s : State) : State :=
  { s with
    data := if b then storeWord s.data a v else s.data
    cpuWrites := if b then a :: (a + 1) :: s.cpuWrites else s.cpuWrites }

/-- A store at `ea` reaches memory: the address is implemented and the access raises nothing (R100, U10). -/
def storeLands (s : State) (word : Bool) (ea : Word) : Bool :=
  s.dataImpl ea && !accessFaults s true word ea

/-- `ProgRead24(paddr)` (R10).  An unimplemented address reads as any value (U24). -/
def progRead (s : State) (a : ProgAddr) : ProgWord :=
  if s.progImpl a then memRead unprogrammedWord s.prog a.toNat else Config.freeProgWord s.draws

/-! ## The software stack (R90) -/

/-- The stack checks on an address generated using W15: below the floor, above an enabled SPLIM, or formed
with a wrap (R90 items a, b, c). -/
def stackBad (s : State) (ea : Word) (wraps : Bool) : Bool :=
  decide (ea < stackBase) || (s.splimEnabled && decide (s.splim < ea)) || wraps

/-- The stack checks of one address. -/
def stackCheck (ea : Word) (wraps : Bool) (s : State) : State := raiseStackIf (stackBad s ea wraps) s

/-- An instruction leaves `v` in W15, which is checked against the floor (R90 item a). -/
def setSp (v : Word) (s : State) : State := raiseStackIf (decide (v < stackBase)) { s with w15 := v }

/-- A push at the present W15 raises the address error trap (R81, U10). -/
def pushFaults (s : State) : Bool := accessFaults s true true s.w15

/-- `Push16(v)` (R10): the write at W15, then W15 + 2, with the checks of R81 and R90.  A write that
raises the address error is inhibited (R100). -/
def push16 (v : Word) (s : State) : State :=
  let ea := s.w15
  let s1 := stackCheck ea (decide (0xFFFD#16 < ea)) s
  let s2 := raiseAddressIf (pushFaults s) s1
  let s3 := cpuStoreWordIf (storeLands s true ea) ea v s2
  setSp (ea + 2) s3

/-- What `Pop16()` answers. -/
structure Popped where
  /-- The word read; any value where the read raised the address error (R81, U9). -/
  value : Word
  /-- The read raised the address error. -/
  faulted : Bool
  /-- The state after it. -/
  state : State
  deriving DecidableEq, Repr

/-- A pop at the present W15 raises the address error trap (R81, R86). -/
def popFaults (s : State) : Bool := accessFaults s false true (s.w15 - 2)

/-- The word a pop at the present W15 reads; any value where the read raises the address error (U9). -/
def popValue (s : State) : Word :=
  if popFaults s then Config.freeWord s.draws else readWord s (s.w15 - 2)

/-- The state after a pop: W15 - 2 with the checks of R81 and R90.  A borrow in forming the address is a
wrap (R90 item c; log entry 13). -/
def popState (s : State) : State :=
  let ea := s.w15 - 2
  let s1 := stackCheck ea (decide (s.w15 < 2#16)) s
  let s2 := raiseAddressIf (popFaults s) { s1 with draws := s1.draws + (popFaults s).toNat }
  setSp ea s2

/-- `Pop16()` (R10). -/
def pop16 (s : State) : Popped := { value := popValue s, faulted := popFaults s, state := popState s }

/-! ## The Working register set (R22, R235) -/

/-- The sets a free value selects among: those the device has (R235, U17). -/
def drawnSet (n : Nat) : WSet :=
  match (Config.freeWord n).toNat % 3 with
  | 0 => .default
  | 1 => .alt1
  | _ => .alt2

/-- `ctxlevel(f)`, the level a CTXT field selects: f + 1, and none for 7 (R39). -/
def ctxLevel (f : BitVec 3) : Option (BitVec 4) := if f = 7#3 then none else some (f.setWidth 4 + 1#4)

/-- CTXT1, FALTREG<2:0> (R39). -/
def Device.ctxt1 (d : Device) : BitVec 3 := d.faltreg.extractLsb' 0 3

/-- CTXT2, FALTREG<6:4> (R39). -/
def Device.ctxt2 (d : Device) : BitVec 3 := d.faltreg.extractLsb' 4 3

/-- The set whose CTXT level is P, if exactly one is (R235). -/
def matchingSet (d : Device) (p : BitVec 4) : Option WSet :=
  if ctxLevel (Device.ctxt1 d) = some p ∧ ctxLevel (Device.ctxt2 d) ≠ some p then some .alt1
  else if ctxLevel (Device.ctxt2 d) = some p ∧ ctxLevel (Device.ctxt1 d) ≠ some p then some .alt2
  else none

/-- Use the chosen set, or any set of the device where the source gives no answer (R235, U17).  Without
`HAS_ALTW` the default set is used always (R22). -/
def useSet (choice : Option WSet) (s : State) : State :=
  { s with
    wctx := if s.dev.hasAltW then choice.getD (drawnSet s.draws) else .default
    draws := s.draws + (s.dev.hasAltW && choice.isNone).toNat }

/-! ## Taking an exception (R225) -/

/-- What the Interrupt Controller presents: a trap or interrupt vector k. -/
inductive Source where
  | trap (t : Trap)
  | irq (k : Nat)
  deriving DecidableEq, Repr

/-- The vector number (R162). -/
def Source.vector : Source → Nat
  | .trap t => t.vector
  | .irq k => k + 8

/-- The priority level of a source: the trap's fixed level, or the source's IPCx field (R171, R180). -/
def State.sourceLevel (s : State) : Source → BitVec 4
  | .trap t => t.level s.dev
  | .irq k => (s.level k).setWidth 4

/-- The program counter lies in Auxiliary Flash (R165). -/
def State.inAuxFlash (s : State) : Option AuxFlash :=
  s.dev.auxFlash.filter fun f => decide (f.low ≤ s.pc.toNat) && decide (s.pc.toNat ≤ f.high)

/-- `use_aivt` (R164). -/
def State.useAivt (s : State) : Bool :=
  s.dev.hasAivt && s.dev.aivtCfg && s.aivten && decide (2 ≤ s.dev.bsPages)

/-- `VectorBase` (R163): AIVTBASE = (BSPAGES - 1) * 0x400 for the AIVT, 0 for the IVT. -/
def State.vectorBase (s : State) : Nat := if s.useAivt then (s.dev.bsPages - 1) * 0x400 else 0

/-- The vector slot of a source (R163-R165); none for the DMAC error trap in the AIVT, whose slot is
Reserved (R164, U3), unless the device reads it. -/
def vectorSlot (x : Source) (s : State) : Option ProgAddr :=
  match s.inAuxFlash with
  | some f => some f.vector
  | none =>
    if s.useAivt && decide (x = .trap .dmac) && !s.dev.aivtDmacSlot then none
    else some (BitVec.ofNat 24 (s.vectorBase + 4 + 2 * x.vector))

/-- The first stacked word: PC<15:1> and SFA (R229). -/
def frameLow (s : State) : Word := (s.pc.extractLsb' 1 15 ++ BitVec.ofBool s.sfa : BitVec 16)

/-- The second stacked word: SRL, IPL3 and PC<22:16> (R229). -/
def frameHigh (s : State) : Word :=
  (s.sr.extractLsb' 0 8 ++ BitVec.ofBool s.ipl3 ++ s.pc.extractLsb' 16 7 : BitVec 16)

/-- The two pushes of an exception entry (R225, R229).  Where one raises the address error, the process
writes nothing to data space (R100, D31, U8). -/
def pushFrame (s : State) : State :=
  let s1 := push16 (frameLow s) s
  let s2 := push16 (frameHigh s) s1
  let bad := pushFaults s || pushFaults s1
  { s2 with
    data := if bad then s.data else s2.data
    cpuWrites := if bad then s.cpuWrites else s2.cpuWrites }

/-- SFA is cleared after it is stacked (R229, D21), and the new level is written: for a trap of level L,
IPL3 = 1 and IPL = L - 8; for an interrupt its level, or 7 where NSTDIS = 1 (R226, R234). -/
def writeLevel (x : Source) (l : BitVec 4) (s : State) : State :=
  match x with
  | .trap _ =>
    { s with
      sr := withIpl s.sr (l.setWidth 3)
      corcon := (s.corcon &&& 0xFFFB#16) ||| 0x0008#16 }
  | .irq _ =>
    { s with
      sr := withIpl s.sr (if s.nstdis then 7#3 else l.setWidth 3)
      corcon := s.corcon &&& 0xFFFB#16 }

/-- INTTREG is latched (R227): VECNUM = k and ILR = the source's level for an interrupt; any value, in
the implemented bits, for a trap (D8, U16). -/
def latchInttreg (x : Source) (l : BitVec 4) (s : State) : State :=
  match x with
  | .trap _ => { s with inttreg := Config.freeWord s.draws &&& 0x0FFF#16, draws := s.draws + 1 }
  | .irq k => { s with inttreg := (0#4 ++ l ++ BitVec.ofNat 8 k : BitVec 16) }

/-- The Working register set of a handler (R235): the set of the interrupt's level; any set for a trap and
with NSTDIS = 1. -/
def entrySet (x : Source) (l : BitVec 4) (s : State) : Option WSet :=
  match x with
  | .trap _ => none
  | .irq _ => if s.nstdis then none else matchingSet s.dev l

/-- The vector is fetched and loaded; bits 23 and 0 are dropped (R228, D19). -/
def loadVector (slot : ProgAddr) (s : State) : State :=
  { s with
    pc := progRead s slot &&& 0x7FFFFE#24
    draws := s.draws + (!s.progImpl slot).toNat }

/-- The exception process (R225) for source x through the given vector slot, one indivisible step.  The
hard trap it acknowledges is no longer pending; an address error that its own pushes raise is a new event
(R217, U8). -/
def enter (x : Source) (slot : ProgAddr) (s : State) : State :=
  let l := s.sourceLevel x
  let s1 := pushFrame { s with hardEvents := .none, hardHold := false }
  let s2 := writeLevel x l s1
  let s3 := latchInttreg x l s2
  let s4 := useSet (entrySet x l s) s3
  { loadVector slot s4 with skid := 0 }

/-- TAKING AN EXCEPTION: the exception process through the source's own slot, or the stop of U3. -/
def takeException (x : Source) (s : State) : Host.Outcome State Fault Refusal :=
  match vectorSlot x s with
  | some slot => .next (enter x slot s)
  | none => .fault .dmacVectorReserved

/-! ## The return from an exception (R130) -/

/-- The Working register set after a return to level P (R235): the default set for 0; with NSTDIS = 1 any
set. -/
def returnSet (p : BitVec 4) (s : State) : Option WSet :=
  if p = 0#4 then some .default else if s.nstdis then none else matchingSet s.dev p

/-- The program counter that the two words of a frame hold (R130). -/
def framePc (hi lo : Word) : ProgAddr :=
  (0#1 ++ hi.extractLsb' 0 7 ++ lo.extractLsb' 1 15 ++ 0#1 : BitVec 24)

/-- SRL, IPL3 and SFA from the two words of a frame (R130).  NSTDIS does not block it (D28). -/
def restoreStatus (hi lo : Word) (s : State) : State :=
  { s with
    sr := (s.sr &&& 0xFF00#16) ||| (hi >>> 8)
    corcon := setBits (setBits s.corcon 0x0008#16 (hi.getLsbD 7)) 0x0004#16 (lo.getLsbD 0) }

/-- RETURN FROM AN EXCEPTION (R130): the exact inverse of the two pushes of `enter`.  Where a pop raised
the address error, every register written other than PC holds any value (U9). -/
def returnFromException (s : State) : State :=
  let p1 := pop16 s
  let p2 := pop16 p1.state
  let bad := p1.faulted || p2.faulted
  let n := p2.state.draws
  let hi := if bad then Config.freeWord n else p1.value
  let lo := if bad then Config.freeWord (n + 1) else p2.value
  let s3 := setSp (if bad then Config.freeWord (n + 2) else p2.state.w15)
    { p2.state with draws := n + 3 * bad.toNat }
  let s4 := restoreStatus hi lo s3
  { useSet (returnSet s4.cpl s4) s4 with pc := framePc p1.value p2.value }

/-! ## Device Reset (R290) -/

/-- The causes of a device Reset that the spec knows (R290). -/
inductive ResetCause where
  | trapConflict
  | software
  | external
  deriving DecidableEq, Repr

/-- `DeviceReset(cause)` (R290): every element of state takes its value of R60.  What R60 leaves
unspecified is a free value: SPLIM, OSCCON.CF, the contents of RAM, and RCON.TRAPR unless the cause is a
hard trap conflict, which sets it (R294).  The pin levels stay the last sampled ones (D25); program memory
and the inputs to come are the outside world's. -/
def deviceReset (cause : ResetCause) (s : State) : State :=
  { State.resetOn s.dev with
    splim := Config.freeWord s.draws
    trapr := if cause = .trapConflict then true else Config.freeBit (s.draws + 1)
    clockFail := Config.freeBit (s.draws + 2)
    data := memOfBytes (Config.freeRam (s.draws + 3))
    pinprev := s.pinprev
    cycleCount := s.cycleCount
    prog := s.prog
    inputs := s.inputs
    draws := s.draws + 4 }

/-! ## Instruction cycles -/

/-- n instruction cycles that count toward a running DISICNT (R132): the count stops at 0, and 0 ends the
effect of `DISI`. -/
def tick (n : Nat) (s : State) : State :=
  { s with
    disicnt := BitVec.ofNat 14 (s.disicnt.toNat - n)
    disiActive := s.disiActive && decide (n < s.disicnt.toNat)
    cycleCount := s.cycleCount + n }

/-- The instruction cycles of an exception process (R317, R320): 13 where VAR = 0, 9 to 13 where VAR = 1,
and the stalls of this boundary; a drawn number of them where VAR = 1. -/
def entryCycles (stalls : Nat) (s : State) : Nat :=
  (if s.var then 9 + (Config.freeWord s.draws).toNat % 5 else 13) + stalls

/-- The cycles of an exception process count (R132). -/
def tickEntry (stalls : Nat) (s : State) : State :=
  let t := tick (entryCycles stalls s) s
  { t with draws := t.draws + s.var.toNat }

end Sys2Proof.Machine
end

