-- ==== Sys2Proof/Machine/Arbitration.lean ====
section
/-!
DEFINITION. The Interrupt Controller as a function of the state (R160): requests, eligibility and the
winner presented to the CPU (R170-R175, R181, R216), the wake-up condition (R237, R239), and the
resolution of hard trap events (R217).
-/

namespace Sys2Proof.Machine

/-! ## Interrupt requests -/

/-- `req(k)` (R170): implemented, flagged and enabled. -/
def State.req (s : State) (k : Nat) : Bool := s.dev.impl k && s.flag k && s.enable k

/-- Interrupt k is eligible (R173): requested, globally enabled, of a level strictly above the CPU's, and
not of levels 1-6 while `DISI` is in effect. -/
def eligibleIrq (s : State) (k : Nat) : Bool :=
  s.req k && s.gieOn && decide (s.cpl < (s.level k).setWidth 4) &&
    (!s.disiInEffect || decide (s.level k = 7#3))

/-- The vectors whose flag registers hold a flagged and enabled bit, in rising order. -/
def pendingVectors (s : State) : List Nat :=
  (List.range 16).flatMap fun x =>
    if (s.ifs[x]?.getD 0#16) &&& (s.iec[x]?.getD 0#16) = 0#16 then []
    else (List.range 16).map fun j => 16 * x + j

/-- Interrupt j goes before interrupt k: a greater level, or the same level and the lower vector (R172). -/
def goesBefore (s : State) (j k : Nat) : Bool :=
  decide (s.level k < s.level j) || (decide (s.level j = s.level k) && decide (j < k))

/-- The first among the eligible interrupts of a list, in the order of R172. -/
def bestIrq (s : State) : List Nat → Option Nat
  | [] => none
  | k :: t =>
    match bestIrq s t with
    | none => if eligibleIrq s k then some k else none
    | some b => if eligibleIrq s k && goesBefore s k b then some k else some b

/-! ## Traps -/

/-- A trap is eligible while its flag is 1 and its level is above the CPU's (R181). -/
def eligibleTrap (s : State) (t : Trap) : Bool := s.trapFlag t && decide (s.cpl < t.level s.dev)

/-- The traps, highest level first (R216). -/
def trapsByLevel : List Trap :=
  [.oscillator, .address, .genericHard, .stack, .math, .dmac, .genericSoft]

/-- The eligible trap of the highest level (R216). -/
def bestTrap (s : State) : Option Trap := trapsByLevel.find? (eligibleTrap s)

/-! ## The winner -/

/-- The one exception presented to the CPU at a boundary (R173, R222): the eligible trap of the highest
level, else the first eligible interrupt. -/
def winner (s : State) : Option Source :=
  match bestTrap s with
  | some t => some (.trap t)
  | none => (bestIrq s (pendingVectors s)).map .irq

/-- The source is a hard trap (R198). -/
def Source.hard : Source → Bool
  | .trap t => t.hard
  | .irq _ => false

/-- The CPU wakes from Sleep or Idle (R237, R239, D17): a request of level 1 or more, or an eligible trap. -/
def wakes (s : State) : Bool :=
  ((pendingVectors s).any fun k => s.req k && decide (s.level k ≠ 0#3)) || (bestTrap s).isSome

/-- What a wake-up leaves: `power` is Run, and DISICNT is any value up to the old one, since the source does
not say whether it counts in Sleep or Idle (R237, U12). -/
def wake (s : State) : State :=
  let n := if s.disicnt = 0#14 then 0#14
    else BitVec.ofNat 14 ((Config.freeWord s.draws).toNat % (s.disicnt.toNat + 1))
  { s with
    power := .run
    disicnt := n
    disiActive := s.disiActive && decide (n ≠ 0#14)
    draws := s.draws + 1 }

/-- A wake-up where the CPU is in Sleep or Idle. -/
def wakeIfAsleep (s : State) : State := if s.power = .run then s else wake s

/-! ## Hard trap events (R217) -/

/-- How the hard trap events of a boundary are resolved. -/
inductive HardOutcome where
  /-- There is no event. -/
  | none
  /-- The one event's trap is acknowledged now (R198). -/
  | take (t : Trap)
  /-- Hard trap conflict: the device is reset (R218). -/
  | conflict
  /-- An event at the level the CPU is at, which the source leaves without an outcome (U19). -/
  | ownLevel
  deriving DecidableEq, Repr

/-- The hard traps that have an event. -/
def HardEvents.traps (e : HardEvents) : List Trap :=
  (if e.osc then [.oscillator] else []) ++ (if e.addr then [.address] else []) ++
    (if e.gen then [.genericHard] else [])

/-- R217: no event, nothing; two or more, conflict; one below the CPU's level, conflict; one above it, taken;
one at it, no outcome. -/
def hardOutcome (s : State) : HardOutcome :=
  if s.hardHold then
    match HardEvents.traps s.hardEvents with
    | [] => .none
    | [t] =>
      if t.level s.dev < s.cpl then .conflict
      else if s.cpl < t.level s.dev then .take t
      else .ownLevel
    | _ => .conflict
  else .none

end Sys2Proof.Machine
end

