-- ==== Sys2Proof/Syntax.lean ====
section
/-!
DEFINITION. The instructions: one constructor for each row of spec/opcode_table.json (R113), with the
operands R114 gives it.
-/

namespace Sys2Proof

/-- The mode `PWRSAV #lit1` selects (R114, R135): 0 is Sleep, 1 is Idle. -/
inductive PowerSave where
  | sleep
  | idle
  deriving DecidableEq, Repr

/-- The eight instructions of the opcode table (R113, R115). -/
inductive Instr where
  /-- `NOP` (R143). -/
  | nop
  /-- `GOTO lit23` (R137): the target as a 24-bit program address, bits 23 and 0 zero (R114). -/
  | goto (target : ProgAddr)
  /-- `RETURN` (R139). -/
  | ret
  /-- `RETFIE` (R130). -/
  | retfie
  /-- `BRA slit16` (R138): a signed offset in program words (R114). -/
  | bra (slit16 : BitVec 16)
  /-- `DISI #lit14` (R131). -/
  | disi (lit14 : BitVec 14)
  /-- `RESET` (R136). -/
  | reset
  /-- `PWRSAV #lit1` (R135). -/
  | pwrsav (mode : PowerSave)
  deriving DecidableEq, Repr

/-- The program words an instruction occupies: two for `GOTO`, one for every other (R113). -/
def Instr.words : Instr → Nat
  | .nop => 1
  | .goto _ => 2
  | .ret => 1
  | .retfie => 1
  | .bra _ => 1
  | .disi _ => 1
  | .reset => 1
  | .pwrsav _ => 1

end Sys2Proof
end

