-- ==== Sys2Proof/WellFormed.lean ====
section
/-!
DEFINITION. Which instructions an encoding exists for: the operands that the fields of R113 can hold.
-/

namespace Sys2Proof

/-- A `GOTO` target has bit 0 zero (R114: `target[0] = 0`). -/
def targetEven (target : ProgAddr) : Bool := !target.getLsbD 0

/-- A `GOTO` target has bit 23 zero (R114: `target[23] = 0`). -/
def targetLow (target : ProgAddr) : Bool := !target.getLsbD 23

/-- An instruction whose operands its encoding can hold (R113, R114).  Every other operand's type is
exactly its field, so only `GOTO` is checked. -/
def Instr.wellFormed : Instr → Bool
  | .nop => true
  | .goto target => targetEven target && targetLow target
  | .ret => true
  | .retfie => true
  | .bra _ => true
  | .disi _ => true
  | .reset => true
  | .pwrsav _ => true

end Sys2Proof
end

