-- ==== Sys2Proof/Decode.lean ====
section
/-!
DEFINITION. The decoder from 24-bit program words to instructions, the encoder back, and the word
numbering of spec/opcode_table.json (R110, R113-R115, R117).
-/

namespace Sys2Proof

/-- Why a list of program words is no instruction of the opcode table. -/
inductive DecodeError where
  /-- There is no word, or a `GOTO` lacks its second word. -/
  | truncated
  /-- The first word belongs to no row of the table (R115, R117). -/
  | outsideTable (word : ProgWord)
  /-- The first word is a `GOTO`'s and the second has a bit above bit 6 set (R113, mask2). -/
  | gotoSecondWord (word : ProgWord)
  deriving DecidableEq, Repr

/-- The top byte `word[23:16]`, which selects the instruction group (R115). -/
def topByte (w : ProgWord) : BitVec 8 := w.extractLsb' 16 8

/-- The target of a `GOTO` (R114): `target[15:1] = word1[15:1]`, `target[22:16] = word2[6:0]`, bits 0
and 23 zero. -/
def gotoTarget (w1 w2 : ProgWord) : ProgAddr :=
  (0#1 ++ w2.extractLsb' 0 7 ++ w1.extractLsb' 1 15 ++ 0#1 : BitVec 24)

/-- The instruction at the head of a list of program words and the words after it, or the name of
what is wrong.  A word outside the table is rejected by name, never trapped (R115, R117). -/
def decode : List ProgWord → Except DecodeError (Instr × List ProgWord)
  | [] => .error .truncated
  | w :: rest =>
    if topByte w = 0x00#8 then .ok (.nop, rest)
    else if topByte w = 0x04#8 then
      if w.getLsbD 0 then .error (.outsideTable w)
      else match rest with
        | [] => .error .truncated
        | w2 :: rest2 =>
          if w2.extractLsb' 7 17 = 0#17 then .ok (.goto (gotoTarget w w2), rest2)
          else .error (.gotoSecondWord w2)
    else if w = 0x060000#24 then .ok (.ret, rest)
    else if w = 0x064000#24 then .ok (.retfie, rest)
    else if topByte w = 0x37#8 then .ok (.bra (w.extractLsb' 0 16), rest)
    else if w.extractLsb' 14 10 = 0x3F0#10 then .ok (.disi (w.extractLsb' 0 14), rest)
    else if w = 0xFE0000#24 then .ok (.reset, rest)
    else if w = 0xFE4000#24 then .ok (.pwrsav .sleep, rest)
    else if w = 0xFE4001#24 then .ok (.pwrsav .idle, rest)
    else .error (.outsideTable w)

/-- The program words of an instruction, from the patterns of R113.  The don't-care bits of `NOP` are
written as zeros. -/
def encode : Instr → List ProgWord
  | .nop => [0x000000#24]
  | .goto target =>
    [(0x04#8 ++ target.extractLsb' 1 15 ++ 0#1 : BitVec 24), (0#17 ++ target.extractLsb' 16 7 : BitVec 24)]
  | .ret => [0x060000#24]
  | .retfie => [0x064000#24]
  | .bra slit16 => [(0x37#8 ++ slit16 : BitVec 24)]
  | .disi lit14 => [(0x3F0#10 ++ lit14 : BitVec 24)]
  | .reset => [0xFE0000#24]
  | .pwrsav .sleep => [0xFE4000#24]
  | .pwrsav .idle => [0xFE4001#24]

/-- The two program words that hold an instruction's bits `w`, numbered as spec/opcode_table.json
numbers them: bits 23..0 are the first word, bits 47..24 the second; bits at or above `nbits` are 0.
The longest instruction is two words (R110). -/
def tableWords (nbits w : Nat) : List ProgWord :=
  let bits := w % 2 ^ nbits
  [BitVec.ofNat 24 bits, BitVec.ofNat 24 (bits >>> 24)]

/-- The instruction the decoder reads from the bits of a row of the opcode table. -/
def decodeTableWord (nbits w : Nat) : Option Instr :=
  match decode (tableWords nbits w) with
  | .ok (i, _) => some i
  | .error _ => none

end Sys2Proof
end

