-- ==== Sys2Proof/Machine/Flow.lean ====
section
/-!
DEFINITION. The meanings of `NOP`, `GOTO`, `BRA` and `RETURN` (R137-R139, R143).  While a meaning runs, `pc`
holds the address of the next instruction (R24): the step has already moved it past the words.
-/

namespace Sys2Proof.Machine

/-- `NOP` changes nothing but `pc` (R143), which the step has advanced. -/
def execNop (s : State) : Host.Outcome State Fault Refusal := .next s

/-- `pc <- literal` of `GOTO` and `BRA`, with the address error trap where the literal is an unimplemented
program address (R137, R138, R200 item d). -/
def jumpTo (target : ProgAddr) (s : State) : State :=
  raiseAddressIf (!s.progImpl target) { s with pc := target }

/-- `GOTO #literal` (R137). -/
def execGoto (target : ProgAddr) (s : State) : Host.Outcome State Fault Refusal := .next (jumpTo target s)

/-- `BRA #literal` (R138), the literal given as a signed offset from the next instruction (R114). -/
def execBra (slit16 : BitVec 16) (s : State) : Host.Outcome State Fault Refusal :=
  .next (jumpTo (braTarget s.pc slit16) s)

/-- The program address that two popped words stand for (R139); bits 23 and 0 do not exist in the PC (R23). -/
def returnTarget (d : Device) (first second : Word) : ProgAddr :=
  match d.returnFormat with
  | .asFrame => framePc first second
  | .unstated => Config.returnAddress first second &&& 0x7FFFFE#24

/-- `RETURN` (R139): a return address is popped from the software stack into `pc`; SRL, IPL3 and SFA keep
their values.  Where a pop raised the address error, W15 holds any value (U9). -/
def returnFromCall (s : State) : State :=
  let p1 := pop16 s
  let p2 := pop16 p1.state
  let bad := p1.faulted || p2.faulted
  let s3 := setSp (if bad then Config.freeWord p2.state.draws else p2.state.w15)
    { p2.state with draws := p2.state.draws + bad.toNat }
  { s3 with pc := returnTarget s.dev p1.value p2.value }

/-- `RETURN` (R139). -/
def execReturn (s : State) : Host.Outcome State Fault Refusal := .next (returnFromCall s)

end Sys2Proof.Machine
end

