-- ==== Sys2Proof/Machine/Interrupt.lean ====
section
/-!
DEFINITION. The meanings of `RETFIE` (R130) and `DISI` (R131).
-/

namespace Sys2Proof.Machine

/-- `RETFIE` (R130). -/
def execRetfie (s : State) : Host.Outcome State Fault Refusal := .next (returnFromException s)

/-- `DISI #lit14` (R131): the count is loaded, replacing what is left of an earlier one, and levels 1-6 are
disabled unless it is 0. -/
def execDisi (lit14 : BitVec 14) (s : State) : Host.Outcome State Fault Refusal :=
  .next { s with disicnt := lit14, disiActive := decide (lit14 ≠ 0#14) }

end Sys2Proof.Machine
end

