-- ==== Sys2Proof/Machine/PowerReset.lean ====
section
/-!
DEFINITION. The meanings of `PWRSAV` (R135) and `RESET` (R136).
-/

namespace Sys2Proof.Machine

/-- The mode that `PWRSAV` enters (R135). -/
def powerOf : PowerSave → Power
  | .sleep => .sleep
  | .idle => .idle

/-- `PWRSAV #lit1` (R135): the CPU executes nothing more until a wake-up (R237). -/
def execPwrsav (mode : PowerSave) (s : State) : Host.Outcome State Fault Refusal :=
  .next { s with power := powerOf mode }

/-- `RESET` (R136): `DeviceReset(software)`. -/
def execReset (s : State) : Host.Outcome State Fault Refusal := .next (deviceReset .software s)

end Sys2Proof.Machine
end

