-- ==== Sys2Proof/Machine/Dispatch.lean ====
section
/-!
DEFINITION. The meaning of each instruction, one arm for each constructor.
-/

namespace Sys2Proof.Machine

def exec (i : Instr) (s : State) : Host.Outcome State Fault Refusal :=
  match i with
  | .nop => Sys2Proof.Machine.execNop s
  | .goto target => Sys2Proof.Machine.execGoto target s
  | .ret => Sys2Proof.Machine.execReturn s
  | .retfie => Sys2Proof.Machine.execRetfie s
  | .bra slit16 => Sys2Proof.Machine.execBra slit16 s
  | .disi lit14 => Sys2Proof.Machine.execDisi lit14 s
  | .reset => Sys2Proof.Machine.execReset s
  | .pwrsav mode => Sys2Proof.Machine.execPwrsav mode s

end Sys2Proof.Machine
end

