-- ==== Sys2Proof/Machine/Environment.lean ====
section
/-!
DEFINITION. The environment agents (R160): peripherals, external interrupt pins (R240), the DMA controller
(R191, R195, R97), the USB module (R194), the oscillator and PLLs (R197, R199), the NVM controller (R193) and
the reset logic (R290).  No agent clears a flag (R160).
-/

namespace Sys2Proof.Machine

/-- Any of the 512 bytes from a Buffer Descriptor Table's start is unimplemented (R194).  Data space ends at
0xFFFF (R49, R91). -/
def bdtBad (s : State) (start : BitVec 32) : Bool :=
  (List.range 512).any fun i =>
    decide (0xFFFF < start.toNat + i) || !inRanges s.dev.dataRanges (start.toNat + i)

/-- A DMA write (R191, R195): to an unimplemented address it sets DAE; coinciding with a CPU write to the same
address it is ignored and sets DMACERR (R97); otherwise it is performed. -/
def dmaWrite (a : Word) (v : Byte) (coincident : Bool) (s : State) : State :=
  if !s.dataImpl a then raise3 0x0020#16 s
  else if coincident && s.cpuWrites.contains a then raiseDmac s
  else { s with data := storeByte s.data a v }

/-- A USB write (R194). -/
def usbWrite (a : Word) (v : Byte) (s : State) : State :=
  if !s.dataImpl a then raise3 0x0040#16 s else { s with data := storeByte s.data a v }

/-- One action of an agent; the agents of a unit the device lacks do nothing (D24). -/
def act (a : EnvAction) (s : State) : State :=
  match a with
  | .irq k => setFlag k s
  | .oscFail => raiseOscillator s
  | .clockFail v => { s with clockFail := v }
  | .usbPllLoss => raise3 0x0002#16 s
  | .auxPllLoss => raise3 0x0001#16 s
  | .nvmAddressError => raise3 0x0100#16 s
  | .dmaRead a => if s.dev.hasDma && !s.dataImpl a then raise3 0x0020#16 s else s
  | .dmaWrite a v coincident => if s.dev.hasDma then dmaWrite a v coincident s else s
  | .usbRead a => if s.dev.hasUsb && !s.dataImpl a then raise3 0x0040#16 s else s
  | .usbWrite a v => if s.dev.hasUsb then usbWrite a v s else s
  | .usbBdt start => if s.dev.hasUsb && bdtBad s start then raise3 0x0040#16 s else s
  | .reset => deviceReset .external s

/-- The actions of a boundary, in order. -/
def actAll : List EnvAction → State → State
  | [], s => s
  | a :: t, s => actAll t (act a s)

/-- INTCON2.INTiEP: interrupt on the negative edge (R30, R240). -/
def State.negativeEdge (s : State) (i : Nat) : Bool := s.intcon2.getLsbD i

/-- The edge that pin i's polarity selects (R240). -/
def pinEdge (s : State) (levels : BitVec 5) (i : Nat) : Bool :=
  if s.negativeEdge i then s.pinprev.getLsbD i && !levels.getLsbD i
  else !s.pinprev.getLsbD i && levels.getLsbD i

/-- Sample pin i (R240): the selected edge sets the flag of its vector. -/
def samplePin (levels : BitVec 5) (i : Nat) (s : State) : State :=
  if decide (i < s.dev.nextint) && pinEdge s levels i then
    match s.dev.extIrq[i]? with
    | some k => setFlag k s
    | none => s
  else s

/-- Sample the five pins and keep their levels (R240, R56). -/
def samplePins (levels : BitVec 5) (s : State) : State :=
  let t := samplePin levels 4 (samplePin levels 3 (samplePin levels 2 (samplePin levels 1 (samplePin levels 0 s))))
  { t with pinprev := levels }

/-- The sample of the pins at a boundary; none where no pin changed (R240). -/
def sampleIf (pins : Option (BitVec 5)) (s : State) : State :=
  match pins with
  | some levels => samplePins levels s
  | none => s

/-- Step item 1 (R161): the environment acts, with the pins sampled once (U21), at the place among the actions
that the inputs give it (D18: any order; log entry 8). -/
def environment (b : Boundary) (s : State) : State :=
  actAll (b.actions.drop b.pinsAfter) (sampleIf b.pins (actAll (b.actions.take b.pinsAfter) s))

end Sys2Proof.Machine
end

