-- ==== Sys2Proof/Machine/Foreign.lean ====
section
/-!
DEFINITION. Instructions outside the opcode table, as far as the spec describes what they do to the state of
the interrupt mechanism: software writes of its registers (R26), data accesses (R81, R82, R86, R90, R92,
R93), divide, `SFTAC`, `DO` and accumulator events (R140-R142, R145).  The inputs say which of these the
instruction at the program counter makes (N21).
-/

namespace Sys2Proof.Machine

/-- The program words an instruction outside the table occupies (R110). -/
def Foreign.words (f : Foreign) : Nat := if f.twoWords then 2 else 1

/-- An operand fetch of the MAC class that raises the address error trap.  It is a word access (R10: `MemRead`
has n = 2 only; DEDUCED, log entry 44), so it is misaligned at an odd address (R81); and unimplemented X space includes
all of Y space and the reverse (R92). -/
def macBad (s : State) (ySpace : Bool) (ea : Word) : Bool :=
  accessFaults s false true ea || (inRanges s.dev.yRanges ea.toNat != ySpace)

/-- The effect raises the address error trap (R200 items a, b, c, e). -/
def effectFaults (s : State) : CpuEffect → Bool
  | .sfrWrite _ _ _ => false
  | .w15Write _ => false
  | .access a => accessFaults s a.write a.word a.ea
  | .paged page => decide (page = 0#16)
  | .macFetch y ea => macBad s y ea
  | .divide _ => false
  | .sftac _ => false
  | .doLoop => false
  | .doEnd => false
  | .acc _ => false
  | .status _ _ => false
  | .stackFrame _ => false

/-- The stack checks of an access whose address is generated using W15 (R90). -/
def accessCheck (a : DataAccess) (s : State) : State :=
  match a.viaW15 with
  | some wraps => stackCheck a.ea wraps s
  | none => s

/-- The effect uses W15: it forms an address from it, or writes it (R90). -/
def usesW15 : CpuEffect → Bool
  | .sfrWrite _ _ _ => false
  | .w15Write _ => true
  | .access a => a.viaW15.isSome
  | .paged _ => false
  | .macFetch _ _ => false
  | .divide _ => false
  | .sftac _ => false
  | .doLoop => false
  | .doEnd => false
  | .acc _ => false
  | .status _ _ => false
  | .stackFrame _ => false

/-- The store of an access, where it lands and no access of the instruction raised the address error. -/
def accessStore (inhibited : Bool) (a : DataAccess) (s : State) : State :=
  if a.word then cpuStoreWordIf (a.write && !inhibited && storeLands s true a.ea) a.ea a.value s
  else cpuStoreByteIf (a.write && !inhibited && storeLands s false a.ea) a.ea (a.value.setWidth 8) s

/-- The `DO` level field replaced. -/
def withDl (w : Word) (v : BitVec 3) : Word := (w &&& 0xF8FF#16) ||| (v.setWidth 16 <<< 8)

/-- `DO` (R142): with the DO stack full (DL = 100) it changes no DO state and raises DOOVR; otherwise it
nests one level deeper.  A level above 4 does not arise. -/
def doLoop (s : State) : State :=
  let full := decide (4#3 ≤ s.dl)
  raiseDoOverflowIf full { s with corcon := if full then s.corcon else withDl s.corcon (s.dl + 1#3) }

/-- The innermost `DO` loop ends (R142). -/
def doEnd (s : State) : State :=
  { s with corcon := if s.dl = 0#3 then s.corcon else withDl s.corcon (s.dl - 1#3) }

/-- The CPU writes SR bits other than IPL<2:0> (R25). -/
def writeStatus (mask v : Word) (s : State) : State :=
  { s with sr := (s.sr &&& ~~~(mask &&& 0xFF1F#16)) ||| (v &&& (mask &&& 0xFF1F#16)) }

/-- A shift count exceeds ±16 (R141). -/
def shiftBad (count : Int) : Bool := decide (16 < count) || decide (count < -16)

/-- One effect of an instruction.  Where an access of the instruction raises the address error
(`inhibited`), its data-space writes, SFRs included, do not happen (R100; log entry 27) and the registers it writes hold
any value (U9; log entry 28).  The DO level is not among those: it is updated as always (R142; DEDUCED, log entry 46).
A paged access does no more than trap on page 0, since the spec says nothing else of it (R93; DESIGN CHOICE, log entry
47). -/
def applyEffect (inhibited : Bool) (e : CpuEffect) (s : State) : State :=
  match e with
  | .sfrWrite r mask v => if inhibited then s else swWrite r mask v s
  | .w15Write v =>
    if inhibited then { s with w15 := Config.freeWord s.draws, draws := s.draws + 1 } else { s with w15 := v }
  | .access a =>
    accessStore inhibited a (raiseAddressIf (accessFaults s a.write a.word a.ea) (accessCheck a s))
  | .paged page => raiseAddressIf (decide (page = 0#16)) s
  | .macFetch y ea => raiseAddressIf (macBad s y ea) s
  | .divide divisor => raiseDivideIf (decide (divisor = 0#16)) s
  | .sftac count => raiseShiftIf (shiftBad count) s
  | .doLoop => doLoop s
  | .doEnd => doEnd s
  | .acc e => raiseAcc e s
  | .status mask v =>
    if inhibited then writeStatus mask (Config.freeWord s.draws) { s with draws := s.draws + 1 }
    else writeStatus mask v s
  | .stackFrame active =>
    if inhibited then
      { s with corcon := setBits s.corcon 0x0004#16 (Config.freeBit s.draws), draws := s.draws + 1 }
    else { s with corcon := setBits s.corcon 0x0004#16 active }

/-- The effects, in order. -/
def applyEffects (inhibited : Bool) : List CpuEffect → State → State
  | [], s => s
  | e :: t, s => applyEffects inhibited t (applyEffect inhibited e s)

/-- The floor check on the W15 that an instruction using W15 leaves (R90 item a, D22). -/
def leaveCheck (uses : Bool) (s : State) : State := raiseStackIf (uses && decide (s.w15 < stackBase)) s

/-- A transfer of control by an instruction outside the table; bits 23 and 0 do not exist in the PC (R23). -/
def transfer (target : Option ProgAddr) (s : State) : State :=
  match target with
  | some a => { s with pc := a &&& 0x7FFFFE#24 }
  | none => s

/-- The instruction outside the table, where `pc` already holds the next instruction's address (R24): its
effects, the check of the W15 it leaves, and its transfer of control.  Where it both clears a flag by a software write
and sets it, which R26 and U6 leave open, the later of the two wins: the inputs order the effects, and the check of the
W15 comes last (DESIGN CHOICE, log entry 45). -/
def execForeign (f : Foreign) (s : State) : State :=
  transfer f.target
    (leaveCheck (f.effects.any usesW15) (applyEffects (f.effects.any (effectFaults s)) f.effects s))

end Sys2Proof.Machine
end

