-- ==== Sys2Proof/Machine/Cycle.lean ====
section
/-!
DEFINITION. One step at an instruction boundary (R161): the environment, the hard traps, the wake-up, the
arbitration with its acknowledge delay (R224), and the fetch and execution of one instruction.
-/

namespace Sys2Proof.Machine

/-! ## Executing an instruction (R161 item 6) -/

/-- `cycles(i)`, at least 1, without stalls (R6, D12; `RETFIE` takes 3, R316). -/
def baseCycles (d : Device) : Instr → Nat
  | .nop => max 1 d.cycles.nop
  | .goto _ => max 1 d.cycles.goto
  | .ret => max 1 d.cycles.ret
  | .retfie => 3
  | .bra _ => max 1 d.cycles.bra
  | .disi _ => max 1 d.cycles.disi
  | .reset => max 1 d.cycles.reset
  | .pwrsav _ => max 1 d.cycles.pwrsav

/-- The instruction's cycles count toward DISICNT, except those of the `DISI` that loaded it (R132). -/
def tickInstr (i : Instr) (n : Nat) (s : State) : State :=
  match i with
  | .disi _ => { s with cycleCount := s.cycleCount + n }
  | _ => tick n s

/-- What executing an instruction of the given length does before its own rule: `gie_eff` takes GIE (R57,
R175) and `pc` moves past its words (R24). -/
def beginInstr (words : Nat) (s : State) : State :=
  { s with gieEff := s.gie, pc := s.pc + BitVec.ofNat 24 (2 * words) }

/-- Execute a decoded instruction: before it, its own rule, and the count of its cycles (R161 item 6). -/
def runInstr (stalls : Nat) (i : Instr) (s : State) : Host.Outcome State Fault Refusal :=
  match exec i (beginInstr i.words s) with
  | .next t => .next (tickInstr i (baseCycles s.dev i + stalls) t)
  | .fault f => .fault f
  | .refused r => .refused r

/-- Execute an instruction outside the table as the inputs describe it. -/
def runForeign (stalls : Nat) (f : Foreign) (s : State) : State :=
  tick (max 1 f.cycles + stalls) (execForeign f (beginInstr f.words s))

/-- The two program words at the program counter. -/
def fetchWords (s : State) : List ProgWord :=
  [memRead unprogrammedWord s.prog s.pc.toNat, memRead unprogrammedWord s.prog (s.pc + 2#24).toNat]

/-- The second word of an instruction can be fetched, where it has one. -/
def secondWordOk (s : State) (words : Nat) : Bool := decide (words < 2) || s.progImpl (s.pc + 2#24)

/-- The word a decoder's refusal names. -/
def refusedWord (w : ProgWord) : DecodeError → ProgWord
  | .truncated => w
  | .outsideTable v => v
  | .gotoSecondWord v => v

/-- How many words the instruction at `pc` occupies: two for a `GOTO`, whatever its second word holds (R113);
outside the table what the inputs say (R110). -/
def fetchLength (b : Boundary) (s : State) : Nat :=
  match decode (fetchWords s) with
  | .ok (i, _) => i.words
  | .error (.gotoSecondWord _) => 2
  | .error _ => (b.foreign.map Foreign.words).getD 1

/-- Every word of the instruction at `pc` is implemented program memory. -/
def fetchable (b : Boundary) (s : State) : Bool := s.progImpl s.pc && secondWordOk s (fetchLength b s)

/-- Fetch at `pc` and execute.  Where a word of the instruction is unimplemented program memory the address error
trap is raised and nothing executes (R24, R200 item f; for a second word DESIGN CHOICE, log entry 24).  A word outside the table
runs as the inputs say, and is refused by name where they do not (R115, R117, N21). -/
def fetchAndRun (b : Boundary) (s : State) : Host.Outcome State Fault Refusal :=
  if fetchable b s then
    match decode (fetchWords s) with
    | .ok (i, _) => runInstr b.stalls i s
    | .error e =>
      match b.foreign with
      | some f => .next (runForeign b.stalls f s)
      | none => .refused (.outsideTable (refusedWord (memRead unprogrammedWord s.prog s.pc.toNat) e))
  else .next (raiseAddressIf true s)

/-! ## Acknowledging an exception -/

/-- The exception process, and its cycles (R225, R132). -/
def acknowledge (stalls : Nat) (x : Source) (s : State) : Host.Outcome State Fault Refusal :=
  match takeException x s with
  | .next t => .next (tickEntry stalls t)
  | .fault f => .fault f
  | .refused r => .refused r

/-- Items 4 and 5 of the step (R161): with a winner, acknowledge it or execute one more instruction, up to
`SKID_MAX` of them (R224; the choice is a free value); a hard trap is acknowledged at once; without a
winner, execute. -/
def arbitrate (b : Boundary) (s : State) : Host.Outcome State Fault Refusal :=
  match winner s with
  | none => fetchAndRun b { s with skid := 0 }
  | some x =>
    if x.hard || decide (s.dev.skidMax ≤ s.skid) then acknowledge b.stalls x s
    else if Config.freeBit s.draws then acknowledge b.stalls x { s with draws := s.draws + 1 }
    else fetchAndRun b { s with skid := s.skid + 1, draws := s.draws + 1 }

/-- Item 3 of the step (R161, R237): while `power` is not Run the CPU executes nothing until it wakes. -/
def powered (b : Boundary) (s : State) : Host.Outcome State Fault Refusal :=
  if s.power = .run then arbitrate b s
  else if wakes s then arbitrate b (wake s)
  else .next s

/-- Item 2 of the step (R161, R217, R218): hard trap events are resolved first. -/
def resolveHard (b : Boundary) (s : State) : Host.Outcome State Fault Refusal :=
  match hardOutcome s with
  | .none => powered b s
  | .take t => acknowledge b.stalls (.trap t) (wakeIfAsleep s)
  | .conflict => .next (deviceReset .trapConflict s)
  | .ownLevel => .fault .hardTrapAtOwnLevel

/-- What the outside world does at this boundary. -/
def State.boundary (s : State) : Boundary := s.inputs.head?.getD Boundary.quiet

/-- Item 1 of the step (R161): the environment acts, with the inputs of this boundary consumed and the CPU's
writes since the previous boundary settled. -/
def afterEnvironment (s : State) : State :=
  { environment s.boundary { s with inputs := s.inputs.tail } with cpuWrites := [] }

/-- One step at an instruction boundary (R161). -/
def cycle (s : State) : Host.Outcome State Fault Refusal := resolveHard s.boundary (afterEnvironment s)

/-! ## Placing an instruction where the fetch reads -/

/-- Program memory with the two words of a table row's bits at the program counter. -/
def placeWords (nbits w : Nat) (s : State) : List (Nat × ProgWord) :=
  match tableWords nbits w with
  | [w1, w2] =>
    memWrite unprogrammedWord (memWrite unprogrammedWord s.prog s.pc.toNat w1) (s.pc + 2#24).toNat w2
  | _ => s.prog

end Sys2Proof.Machine
end

