-- ==== Sys2Proof/Machine/Step.lean ====
section
/-!
DEFINITION. The step of the machine (R161), and the placing of an instruction where it is fetched.
-/

namespace Sys2Proof.Machine

/-- One step: one instruction boundary and what follows it up to the next (R161). -/
def step (s : State) : Host.Outcome State Fault Refusal := cycle s

/-- The state with the instruction whose bits are `w` (numbered as spec/opcode_table.json numbers them)
stored in program memory at the program counter, where the next step fetches. -/
def State.withFetchWord (s : State) (nbits w : Nat) : State := { s with prog := placeWords nbits w s }

end Sys2Proof.Machine
end

