-- ==== Sys2Proof/Safety.lean ====
section
/-!
DEFINITION. The words that claims use: the invariant of the machine, the values a device Reset leaves, when a
step can execute an instruction, and what a run without a stop is.
-/

namespace Sys2Proof.Machine

/-- Unimplemented bits hold 0 (R26, D24): every set bit of `w` is in `mask`. -/
abbrev WithinMask (w mask : Word) : Prop := w &&& ~~~mask = 0#16

/-- What every step keeps.  Data space and program memory are in canonical form; the program counter is even
(R23); `hard_hold` is 1 exactly while a hard trap event waits (R53); `disi_active` is cleared when DISICNT is 0
(R51); `skid` is within its bound (R58); a device without alternate sets uses the default set (R22); and every
unimplemented bit holds 0 (R26, D24, U2). -/
structure State.Inv (s : State) : Prop where
  dataCanonical : Memory.wf s.data = true
  progCanonical : ProgMemory.wf s.prog = true
  pcEven : s.pc.getLsbD 0 = false
  holdIffEvent : s.hardHold = s.hardEvents.any
  disiArmed : s.disiActive = true → s.disicnt ≠ 0#14
  skidBound : s.skid ≤ s.dev.skidMax
  defaultSet : s.dev.hasAltW = false → s.wctx = .default
  corconBits : WithinMask s.corcon 0xBFFF#16
  intcon1Bits : WithinMask s.intcon1 (intcon1Impl s.dev)
  intcon2Bits : WithinMask s.intcon2 (intcon2Impl s.dev)
  intcon3Bits : WithinMask s.intcon3 (intcon3Impl s.dev)
  intcon4Bits : WithinMask s.intcon4 0x0001#16
  inttregBits : WithinMask s.inttreg 0x0FFF#16
  flagBits : ∀ x : Fin 16, WithinMask s.ifs[x] (s.dev.flagMask x.val)
  enableBits : ∀ x : Fin 16, WithinMask s.iec[x] (s.dev.flagMask x.val)
  levelBits : ∀ x : Fin 62, WithinMask s.ipc[x] (s.dev.ipcMask x.val)

/-- The values that R60 states for the registers after a device Reset, on the device of the state: `pc` is 0 (R290)
unless the device moves its reset location to Auxiliary Flash, and is that location there (R295; bits 23 and 0 do not
exist in the PC, R23). -/
structure ResetValues (t : State) : Prop where
  pcZero : (∀ f, t.dev.auxFlash = some f → f.resetAt = none) → t.pc = 0x000000#24
  pcMoved : ∀ f a, t.dev.auxFlash = some f → f.resetAt = some a →
    t.pc = (0#1 ++ a.extractLsb' 1 22 ++ 0#1 : BitVec 24)
  w15 : t.w15 = 0x1000#16
  splimEnabled : t.splimEnabled = false
  sr : t.sr = 0x0000#16
  corcon : t.corcon = 0x0020#16
  intcon1 : t.intcon1 = 0x0000#16
  intcon2 : t.intcon2 = 0x8000#16
  intcon3 : t.intcon3 = 0x0000#16
  intcon4 : t.intcon4 = 0x0000#16
  flags : ∀ k, t.flag k = false
  enables : ∀ k, t.enable k = false
  levels : ∀ k, t.level k = if t.dev.impl k then 4#3 else 0#3
  inttreg : t.inttreg = 0x0000#16
  disicnt : t.disicnt = 0#14 ∧ t.disiActive = false
  wctx : t.wctx = .default
  hold : t.hardHold = false ∧ t.skid = 0
  power : t.power = .run
  gieEff : t.gieEff = true

/-- The top two words of the software stack can be popped: W15 is even and both words are implemented
(R81, R86). -/
def StackReadable (s : State) : Prop :=
  s.w15.getLsbD 0 = false ∧ s.dataImpl (s.w15 - 2) = true ∧ s.dataImpl (s.w15 - 4) = true

/-- Two words can be pushed: W15 is even and both words are implemented (R81, U10). -/
def StackWritable (s : State) : Prop :=
  s.w15.getLsbD 0 = false ∧ s.dataImpl s.w15 = true ∧ s.dataImpl (s.w15 + 2) = true

/-- Popping two words violates a stack limit (R90): one of the two addresses is below the floor or above an
enabled SPLIM, or forming one of them wraps.  That a borrow below 0 is such a wrap is log entry 13. -/
def popsViolate (s : State) : Bool :=
  decide (s.w15 - 2 < 0x1000#16) || decide (s.w15 - 4 < 0x1000#16) ||
    (s.splimEnabled && (decide (s.splim < s.w15 - 2) || decide (s.splim < s.w15 - 4))) ||
    decide (s.w15 < 4#16)

/-- The two pushes of an exception entry violate a stack limit (R90): W15 is below the floor, it wraps past 0xFFFF on
its way up by 4, or the second address, W15 + 2, is above an enabled SPLIM. -/
def pushesViolate (s : State) : Bool :=
  decide (s.w15.toNat < 0x1000) || decide (0xFFFC ≤ s.w15.toNat) ||
    (s.splimEnabled && decide (s.splim.toNat < s.w15.toNat + 2))

/-- One of the two pushes of an exception entry raises the address error trap: W15 is odd (R81), or a word is
unimplemented on a device where that write traps (U10). -/
def pushesFault (s : State) : Bool :=
  s.w15.getLsbD 0 || (s.dev.unimplWriteTraps && (!s.dataImpl s.w15 || !s.dataImpl (s.w15 + 2)))

/-- The vector slot of source x exists: only the DMAC error trap lacks one, in the AIVT of a device that does not
read its Reserved slot (R164, R116, U3). -/
def SlotExists (x : Source) (s : State) : Prop :=
  x = .trap .dmac → s.inAuxFlash = none → s.useAivt = true → s.dev.aivtDmacSlot = true

/-- Every status flag that is 1 in `s` is 1 in `t`: the interrupt flags and the trap flags (R35, R29, R33, R34). -/
structure FlagsKept (s t : State) : Prop where
  interrupts : ∀ k, s.flag k = true → t.flag k = true
  intcon1 : ∀ i, s.intcon1.getLsbD i = true → t.intcon1.getLsbD i = true
  intcon3 : ∀ i, s.intcon3.getLsbD i = true → t.intcon3.getLsbD i = true
  intcon4 : ∀ i, s.intcon4.getLsbD i = true → t.intcon4.getLsbD i = true

/-- The state at the boundary, after the environment has acted: what items 2 to 6 of a step start from
(R161). -/
abbrev State.atBoundary (s : State) : State := afterEnvironment s

/-- At this boundary the CPU is free to fetch: no hard trap event waits, `power` is Run and no exception is
presented (R161 items 2 to 4). -/
def FreeToFetch (e : State) : Prop := hardOutcome e = .none ∧ e.power = .run ∧ winner e = none

/-- The state that a device at this boundary fetches from (R161 item 5: without a winner `skid` is 0). -/
def fetchState (e : State) : State := { e with skid := 0 }

/-- The words at the program counter are those of instruction i, and all of them are implemented. -/
def Fetches (e : State) (i : Instr) : Prop :=
  e.progImpl e.pc = true ∧ secondWordOk e i.words = true ∧ ∃ rest, decode (fetchWords e) = .ok (i, rest)

/-- A run of n steps that meets no fault and no refusal. -/
def RunsSafely : Nat → State → Prop
  | 0, _ => True
  | n + 1, s => ∃ t, step s = .next t ∧ RunsSafely n t

end Sys2Proof.Machine
end

