-- ==== Sys2Proof/Certificates/Slice0/Obligations.lean ====
section
/-!
DEFINITION. The statements for the provers.  A statement about a free value holds for every value of it; every
statement that starts from a state holds for every device (State.dev) and every input (State.inputs).
-/

section Statements

open Sys2Proof Sys2Proof.Machine

/-! ## Encoding -/

/-- R113, R114: every well-formed instruction decodes from its own words, whatever follows them. -/
def Obligations.EncodedInstructionDecodesToItself : Prop :=
  ∀ (i : Instr) (rest : List ProgWord), i.wellFormed = true → decode (encode i ++ rest) = .ok (i, rest)

/-- R113: what decodes to an instruction is a well-formed instruction's own words; `NOP` alone has don't-care
bits, below its top byte. -/
def Obligations.DecodedWordsAreTheEncoding : Prop :=
  ∀ (ws rest : List ProgWord) (i : Instr), decode ws = .ok (i, rest) →
    i.wellFormed = true ∧ ∃ words, ws = words ++ rest ∧ words.length = i.words ∧
      (words = encode i ∨ (i = .nop ∧ ∃ w, words = [w] ∧ topByte w = 0x00#8))

/-- R115, R117: a word of another instruction group, and a word inside a group that no row matches, is rejected
by name. -/
def Obligations.OtherWordsAreRejectedByName : Prop :=
  ∀ (w : ProgWord) (rest : List ProgWord),
    (topByte w ∉ [0x00#8, 0x04#8, 0x06#8, 0x37#8, 0xFC#8, 0xFE#8] → decode (w :: rest) = .error (.outsideTable w)) ∧
    (topByte w = 0x04#8 → w.getLsbD 0 = true → decode (w :: rest) = .error (.outsideTable w)) ∧
    (topByte w = 0x06#8 → w ≠ 0x060000#24 → w ≠ 0x064000#24 → decode (w :: rest) = .error (.outsideTable w)) ∧
    (topByte w = 0xFC#8 → w.extractLsb' 14 2 ≠ 0#2 → decode (w :: rest) = .error (.outsideTable w)) ∧
    (topByte w = 0xFE#8 → w ≠ 0xFE0000#24 → w ≠ 0xFE4000#24 → w ≠ 0xFE4001#24 →
      decode (w :: rest) = .error (.outsideTable w)) ∧
    (∀ w2, topByte w = 0x04#8 → w.getLsbD 0 = false → w2.extractLsb' 7 17 ≠ 0#17 →
      decode (w :: w2 :: rest) = .error (.gotoSecondWord w2))

/-- A few words written out from R113 decode to the instruction they stand for. -/
def Obligations.WordsWrittenFromTheTableDecode : Prop :=
  decode [0x040200#24, 0x000000#24] = .ok (.goto 0x000200#24, []) ∧
  decode [0x04FFFE#24, 0x00007F#24] = .ok (.goto 0x7FFFFE#24, []) ∧
  decode [0x064000#24] = .ok (.retfie, []) ∧
  decode [0x37FFFD#24] = .ok (.bra 0xFFFD#16, []) ∧
  decode [0xFC0002#24] = .ok (.disi 2#14, []) ∧
  decode [0xFE4001#24] = .ok (.pwrsav .idle, []) ∧
  decode [0xFF0000#24] = .error (.outsideTable 0xFF0000#24)

/-! ## Invariants -/

/-- Every step from a state that meets the invariant leads to one that meets it (R22, R23, R26, R51, R53, R58). -/
def Obligations.EveryStepKeepsTheInvariant : Prop :=
  ∀ s t : State, s.Inv → step s = .next t → t.Inv

/-- The state after Reset meets the invariant, on every device (R60). -/
def Obligations.ResetMeetsTheInvariant : Prop :=
  (∀ d : Device, (State.resetOn d).Inv) ∧ State.reset.Inv

/-- R59, R50: program memory and the device's parameters are constant, and a step takes the inputs of one
boundary. -/
def Obligations.StepKeepsDeviceAndProgram : Prop :=
  ∀ s t : State, step s = .next t → t.dev = s.dev ∧ t.prog = s.prog ∧ t.inputs = s.inputs.tail

/-- R160, R176, R29: no agent but the software clears a flag.  In a step that runs no instruction from outside the
table and no external Reset, every interrupt flag and trap flag that is 1 stays 1, unless the step resets the
device. -/
def Obligations.OnlySoftwareOrResetClearsAFlag : Prop :=
  ∀ s t : State, s.boundary.foreign = none → EnvAction.reset ∉ s.boundary.actions → step s = .next t →
    ResetValues t ∨ FlagsKept s t

/-! ## One step -/

/-- R161, R24, R57, R132: where the CPU is free to fetch and the words at `pc` are those of i, the step runs i from
the state in which `skid` is 0, `gie_eff` has taken GIE and `pc` is past the words, and then counts its cycles n:
toward DISICNT too, except for the `DISI` that loads it. -/
def Obligations.StepRunsTheDecodedInstruction : Prop :=
  ∀ (s t : State) (i : Instr), FreeToFetch s.atBoundary → Fetches s.atBoundary i →
    exec i { s.atBoundary with
      skid := 0
      gieEff := s.atBoundary.intcon2.getLsbD 15
      pc := s.atBoundary.pc + BitVec.ofNat 24 (2 * i.words) } = .next t →
    ∃ n, n = baseCycles s.dev i + s.boundary.stalls ∧ 0 < n ∧
      ((∀ lit14, i ≠ .disi lit14) → step s = .next { t with
        cycleCount := t.cycleCount + n
        disicnt := BitVec.ofNat 14 (t.disicnt.toNat - n)
        disiActive := t.disiActive && decide (n < t.disicnt.toNat) }) ∧
      ((∃ lit14, i = .disi lit14) → step s = .next { t with cycleCount := t.cycleCount + n })

/-- R115, R117, N21: where the CPU is free to fetch, the word at `pc` is outside the table and no word of the
instruction is unimplemented, the step does what the inputs say that instruction does, and is refused by name where
they say nothing; no trap is invented. -/
def Obligations.StepOnAWordOutsideTheTable : Prop :=
  ∀ (s : State) (err : DecodeError), FreeToFetch s.atBoundary → s.atBoundary.progImpl s.atBoundary.pc = true →
    decode (fetchWords s.atBoundary) = .error err →
    (s.boundary.foreign = none →
      ((∃ w, err = .gotoSecondWord w) → s.atBoundary.progImpl (s.atBoundary.pc + 2#24) = true) →
      ∃ w ∈ fetchWords s.atBoundary, step s = .refused (.outsideTable w)) ∧
    (∀ f, s.boundary.foreign = some f →
      (f.twoWords = true ∨ (∃ w, err = .gotoSecondWord w) →
        s.atBoundary.progImpl (s.atBoundary.pc + 2#24) = true) →
      step s = .next (tick (max 1 f.cycles + s.boundary.stalls)
        (execForeign f { s.atBoundary with
          skid := 0
          gieEff := s.atBoundary.intcon2.getLsbD 15
          pc := s.atBoundary.pc + (if f.twoWords then 4#24 else 2#24) })))

/-- R200 item f: about to fetch at an unimplemented address, the CPU executes nothing and the address error trap is
raised, with its hard trap hold.  The same where only the second word of a `GOTO`, or of a two-word instruction outside
the table, is unimplemented: that is the model's (log entry 24), and so is that the raise is a step of its own (log
entry 25). -/
def Obligations.FetchFromUnimplementedAddressTraps : Prop :=
  ∀ s : State, FreeToFetch s.atBoundary →
    (s.atBoundary.progImpl s.atBoundary.pc = false ∨
      (s.atBoundary.progImpl (s.atBoundary.pc + 2#24) = false ∧
        ((∃ w ∈ (fetchWords s.atBoundary).head?, topByte w = 0x04#8 ∧ w.getLsbD 0 = false) ∨
          (∃ f err, s.boundary.foreign = some f ∧ f.twoWords = true ∧
            decode (fetchWords s.atBoundary) = .error err)))) →
    step s = .next { s.atBoundary with
      skid := 0
      intcon1 := s.atBoundary.intcon1 ||| 0x0008#16
      hardEvents := { s.atBoundary.hardEvents with addr := true }
      hardHold := true }

/-! ## The instructions -/

/-- R143, R131, R135: `NOP` changes nothing but `pc`, which the step advances; `DISI` loads its literal into DISICNT,
replacing what an earlier one left, and is in effect unless the literal is 0; `PWRSAV` enters Sleep for the literal 0
and Idle for 1.  None of them changes anything else: no register, no flag, no byte of memory. -/
def Obligations.NopDisiAndPwrsav : Prop :=
  ∀ s : State,
    exec .nop s = .next s ∧
    (∀ lit14, exec (.disi lit14) s = .next { s with disicnt := lit14, disiActive := decide (lit14 ≠ 0#14) }) ∧
    exec (.pwrsav .sleep) s = .next { s with power := .sleep } ∧
    exec (.pwrsav .idle) s = .next { s with power := .idle }

/-- R137, R200 item d: `GOTO` loads its literal into `pc` and changes nothing else; where the literal is an
unimplemented program address it also raises the address error trap. -/
def Obligations.GotoLoadsTheProgramCounter : Prop :=
  ∀ (target : ProgAddr) (s : State),
    (s.progImpl target = true → exec (.goto target) s = .next { s with pc := target }) ∧
    (s.progImpl target = false → exec (.goto target) s = .next { s with
      pc := target
      intcon1 := s.intcon1 ||| 0x0008#16
      hardEvents := { s.hardEvents with addr := true }
      hardHold := true })

/-- R138, R114, R200 item d: `BRA` goes to the following instruction's address plus twice the signed offset, and
raises the address error trap where that is unimplemented. -/
def Obligations.BraAddsTwiceTheSignedOffset : Prop :=
  ∀ (slit16 : BitVec 16) (s : State) (target : ProgAddr),
    target = BitVec.ofInt 24 ((s.pc.toNat : Int) + 2 * slit16.toInt) →
    (s.progImpl target = true → exec (.bra slit16) s = .next { s with pc := target }) ∧
    (s.progImpl target = false → exec (.bra slit16) s = .next { s with
      pc := target
      intcon1 := s.intcon1 ||| 0x0008#16
      hardEvents := { s.hardEvents with addr := true }
      hardHold := true })

/-- R139, R90: `RETURN` takes two words off the stack into `pc`, with the stack checks of each pop, and changes no
other register: SRL, IPL3 and SFA keep their values.  That it pops two words, and their format, is the model's (log
entry 20); so is that a borrow in forming an address counts as the wrap of R90 item c (log entry 13). -/
def Obligations.ReturnPopsTheReturnAddress : Prop :=
  ∀ s : State, StackReadable s → exec .ret s = .next { s with
    pc := returnTarget s.dev (readWord s (s.w15 - 2)) (readWord s (s.w15 - 4))
    w15 := s.w15 - 4
    intcon1 := s.intcon1 ||| (if popsViolate s then 0x0004#16 else 0#16) }

/-- R130, R90, R235: `RETFIE` takes PC, SRL, IPL3 and SFA from the two words on top of the stack, moves W15 down by
4 with the stack checks of each pop, and selects the Working register set of the restored level; SR<15:8>, the rest
of CORCON, memory and every other register keep their values.  That a borrow in forming an address counts as the wrap
of R90 item c is the model's (log entry 13), and so is the default set at level 0 with NSTDIS = 1 too (log entry
37). -/
def Obligations.RetfieRestoresTheFrame : Prop :=
  ∀ s : State, StackReadable s →
    let hi := readWord s (s.w15 - 2)
    let lo := readWord s (s.w15 - 4)
    let p : BitVec 4 := BitVec.ofBool (hi.getLsbD 7) ++ hi.extractLsb' 13 3
    ∃ set n, exec .retfie s = .next { s with
        pc := (0#1 ++ hi.extractLsb' 0 7 ++ lo.extractLsb' 1 15 ++ 0#1 : BitVec 24)
        w15 := s.w15 - 4
        sr := (s.sr.extractLsb' 8 8 ++ hi.extractLsb' 8 8 : BitVec 16)
        corcon := (s.corcon.extractLsb' 4 12 ++ BitVec.ofBool (hi.getLsbD 7) ++ BitVec.ofBool (lo.getLsbD 0) ++
          s.corcon.extractLsb' 0 2 : BitVec 16)
        intcon1 := s.intcon1 ||| (if popsViolate s then 0x0004#16 else 0#16)
        wctx := set
        draws := n } ∧
      (s.dev.hasAltW = false → set = .default) ∧
      (s.dev.hasAltW = true → p = 0#4 → set = .default) ∧
      (s.dev.hasAltW = true → s.nstdis = false →
        ctxLevel (Device.ctxt1 s.dev) = some p → ctxLevel (Device.ctxt2 s.dev) ≠ some p → set = .alt1) ∧
      (s.dev.hasAltW = true → s.nstdis = false →
        ctxLevel (Device.ctxt2 s.dev) = some p → ctxLevel (Device.ctxt1 s.dev) ≠ some p → set = .alt2)

/-- R81, R86, U9: where a word to be popped is misaligned or unimplemented, `RETURN` and `RETFIE` raise the address
error trap; they raise the stack error trap where the two pops violate a stack limit (R90, R220), and may raise it
elsewhere, since W15 then holds any value.  Beside those two flags no byte of memory changes, and no register but
those the instruction writes: `pc`, W15, and for `RETFIE` SRL, IPL3, SFA and the register set, which hold any value
(log entry 28).  That `RETURN` pops a second word is the model's (log entry 20), and that a borrow counts as a wrap
log entry 13's. -/
def Obligations.PopOfAnUnreadableWordTraps : Prop :=
  ∀ (s : State) (i : Instr), i = .ret ∨ i = .retfie → ¬ StackReadable s →
    ∃ t, exec i s = .next t ∧
      t.intcon1.getLsbD 3 = true ∧ t.hardEvents = { s.hardEvents with addr := true } ∧ t.hardHold = true ∧
      (s.intcon1.getLsbD 2 = true ∨ popsViolate s = true → t.intcon1.getLsbD 2 = true) ∧
      (∀ j, j ≠ 2 → j ≠ 3 → t.intcon1.getLsbD j = s.intcon1.getLsbD j) ∧
      (∀ a, readByte t a = readByte s a) ∧ t.cpuWrites = s.cpuWrites ∧
      (∀ j, 8 ≤ j → t.sr.getLsbD j = s.sr.getLsbD j) ∧
      (∀ j, j ≠ 2 → j ≠ 3 → t.corcon.getLsbD j = s.corcon.getLsbD j) ∧
      t.intcon2 = s.intcon2 ∧ t.intcon3 = s.intcon3 ∧ t.intcon4 = s.intcon4 ∧
      t.ifs = s.ifs ∧ t.iec = s.iec ∧ t.ipc = s.ipc ∧ t.inttreg = s.inttreg ∧
      t.splim = s.splim ∧ t.splimEnabled = s.splimEnabled ∧ t.disicnt = s.disicnt ∧ t.disiActive = s.disiActive ∧
      t.trapr = s.trapr ∧ t.clockFail = s.clockFail ∧ t.power = s.power ∧ t.pinprev = s.pinprev ∧
      t.gieEff = s.gieEff ∧ t.skid = s.skid ∧ t.cycleCount = s.cycleCount ∧ t.prog = s.prog ∧ t.dev = s.dev ∧
      t.inputs = s.inputs ∧
      (i = .ret → t.sr = s.sr ∧ t.corcon = s.corcon ∧ t.wctx = s.wctx)

/-- R136, R290, R295, R60: `RESET` leaves every register at the value R60 states, and `pc` at 0 or at the reset location
that the device moves to Auxiliary Flash; program memory, the device and the
inputs to come are not the machine's and stay.  That the pin levels stay the last sampled ones, standing for the pins'
levels at the Reset (D25), and that the cycle counter goes on, is the model's (log entry 16). -/
def Obligations.ResetInstructionResetsTheDevice : Prop :=
  ∀ s : State, ∃ t, exec .reset s = .next t ∧ ResetValues t ∧ t.dev = s.dev ∧ t.prog = s.prog ∧
    t.inputs = s.inputs ∧ t.pinprev = s.pinprev ∧ t.cycleCount = s.cycleCount ∧ Memory.wf t.data = true

/-! ## Reset -/

/-- R60, R290, R292, R295: the values after Reset, on every device, with and without a moved reset location; every source's level is 4, no flag and no enable is set,
the CPU runs at level 0 with interrupts globally enabled. -/
def Obligations.ResetStateHoldsTheStatedValues : Prop :=
  (∀ d : Device, ResetValues (State.resetOn d)) ∧ ResetValues State.reset ∧
    State.reset.pc = 0x000000#24 ∧ State.reset.cpl = 0#4 ∧ State.reset.gie = true

/-! ## Software accesses to the registers -/

/-- R134: INTCON2<14> reads as `disi_active` and DISICNT not 0, and the eligibility of an interrupt uses the same
expression (R173): an implemented, flagged, enabled and globally enabled source of a level above the CPU's is eligible
exactly where that expression is false or its level is 7. -/
def Obligations.DisiStatusBitMirrorsTheCounter : Prop :=
  ∀ s : State, (readSfr s .intcon2).getLsbD 14 = (s.disiActive && decide (s.disicnt ≠ 0#14)) ∧
    ∀ k, eligibleIrq s k = true ↔
      (s.dev.impl k = true ∧ s.flag k = true ∧ s.enable k = true) ∧ (s.gie = true ∨ s.gieEff = true) ∧
      s.cpl.toNat < (s.level k).toNat ∧
      ((s.disiActive && decide (s.disicnt ≠ 0#14)) = false ∨ s.level k = 7#3)

/-- R25, R26, R167: a software write changes SR<3:0> freely, SR<7:5> only while NSTDIS is 0, SR<13>, SR<12> and
SR<10> only toward 0, no other bit of SR, and nothing else. -/
def Obligations.SoftwareWriteOfStatus : Prop :=
  ∀ (mask v : Word) (s : State), ∃ x : Word, swWrite .sr mask v s = { s with sr := x } ∧
    ∀ i < 16, x.getLsbD i =
      if mask.getLsbD i = true ∧ (i < 4 ∨ (5 ≤ i ∧ i ≤ 7 ∧ s.nstdis = false)) then v.getLsbD i
      else if mask.getLsbD i = true ∧ (i = 10 ∨ i = 12 ∨ i = 13) then s.sr.getLsbD i && v.getLsbD i
      else s.sr.getLsbD i

/-- R26, R27: software writes CORCON's VAR, US, EDT and bits 7:4, 1:0 freely and IPL3 only toward 0; DL, SFA and the
unimplemented bit keep their values, and nothing else changes. -/
def Obligations.SoftwareWriteOfCoreControl : Prop :=
  ∀ (mask v : Word) (s : State), ∃ x : Word, swWrite .corcon mask v s = { s with corcon := x } ∧
    ∀ i < 16, x.getLsbD i =
      if mask.getLsbD i = true ∧ i ∈ [0, 1, 4, 5, 6, 7, 11, 12, 13, 15] then v.getLsbD i
      else if mask.getLsbD i = true ∧ i = 3 then s.corcon.getLsbD i && v.getLsbD i
      else s.corcon.getLsbD i

/-- R35, R36, R37, R26, R311, D6: a software write of IFSx, IECx or IPCx, of the whole register or of any of its bits,
sets the flags, the enables or the named bits of the levels of the implemented vectors of that register and of no other,
and changes nothing else. -/
def Obligations.SoftwareWriteOfInterruptRegisters : Prop :=
  ∀ (mask v : Word) (s : State),
    (∀ x : Fin 16, ∃ b, swWrite (.ifs x) mask v s = { s with ifs := b } ∧
      ∀ k, ({ s with ifs := b } : State).flag k =
        if k / 16 = x.val ∧ mask.getLsbD (k % 16) = true ∧ s.dev.impl k = true then v.getLsbD (k % 16)
        else s.flag k) ∧
    (∀ x : Fin 16, ∃ b, swWrite (.iec x) mask v s = { s with iec := b } ∧
      ∀ k, ({ s with iec := b } : State).enable k =
        if k / 16 = x.val ∧ mask.getLsbD (k % 16) = true ∧ s.dev.impl k = true then v.getLsbD (k % 16)
        else s.enable k) ∧
    (∀ x : Fin 62, ∃ b, swWrite (.ipc x) mask v s = { s with ipc := b } ∧
      ∀ k, ∀ i < 3, (({ s with ipc := b } : State).level k).getLsbD i =
        if k / 4 = x.val ∧ mask.getLsbD (4 * (k % 4) + i) = true ∧ s.dev.impl k = true then
          v.getLsbD (4 * (k % 4) + i)
        else (s.level k).getLsbD i)

/-- R38, R39, R26: a software write changes neither INTTREG nor FALTREG.  In a read of FALTREG the unimplemented bits are
1 and the bits of its two fields are the configured ones; that software can read FALTREG so at all is the model's (R50;
log entry 43). -/
def Obligations.ReadOnlyRegistersIgnoreWrites : Prop :=
  ∀ (mask v : Word) (s : State), swWrite .inttreg mask v s = s ∧ swWrite .faltreg mask v s = s ∧
    readSfr s .faltreg &&& 0xFF88#16 = 0xFF88#16 ∧
    (∀ i, i ≠ 3 → i < 7 → (readSfr s .faltreg).getLsbD i = s.dev.faltreg.getLsbD i)

/-- R30 to R33, R203, R217, R294: a software write of INTCON2, INTCON3 or RCON.  In INTCON2 the bits named take the
written values where they are implemented, which the DISI bit is not (R31); a write that takes SWTRAP from 0 to 1 also
sets SGHT, which is a generic hard trap event, and no other write of INTCON2 raises anything.  In INTCON3 the
implemented bits take the written values; that USBPLL is bit 1 is log entry 11.  Of RCON only TRAPR is state (log
entry 36).  Nothing else changes. -/
def Obligations.SoftwareWriteOfIntcon2Intcon3AndRcon : Prop :=
  ∀ (mask v : Word) (s : State) (soft : Bool),
    (soft = true ↔ s.swtrap = false ∧ mask.getLsbD 13 = true ∧ v.getLsbD 13 = true) →
    (∃ x : Word, swWrite .intcon2 mask v s = { s with
        intcon2 := x
        intcon4 := if soft then s.intcon4 ||| 0x0001#16 else s.intcon4
        hardEvents := if soft then { s.hardEvents with gen := true } else s.hardEvents
        hardHold := if soft then true else s.hardHold } ∧
      ∀ i < 16, x.getLsbD i =
        if mask.getLsbD i = true ∧
          (i = 15 ∨ i = 13 ∨ (i = 8 ∧ s.dev.hasAivt = true) ∨ (i < 5 ∧ i < s.dev.nextint)) then v.getLsbD i
        else s.intcon2.getLsbD i) ∧
    (∃ x : Word, swWrite .intcon3 mask v s = { s with intcon3 := x } ∧
      ∀ i < 16, x.getLsbD i =
        if mask.getLsbD i = true ∧
          (i = 8 ∨ i = 4 ∨ ((i = 6 ∨ i = 1) ∧ s.dev.hasUsb = true) ∨ (i = 5 ∧ s.dev.hasDma = true) ∨
            (i = 0 ∧ s.dev.hasApll = true)) then v.getLsbD i
        else s.intcon3.getLsbD i) ∧
    swWrite .rcon mask v s = { s with trapr := if mask.getLsbD 15 = true then v.getLsbD 15 else s.trapr }

/-- R34, R203: a software write of 1 that sets SGHT is a hard trap event; a write of 0 clears it, but while SWTRAP is 1
it then holds any value, and that is no event; a write that does not name SGHT, or writes 1 where it is 1, changes
nothing. -/
def Obligations.SoftwareWriteOfSght : Prop :=
  ∀ (mask v : Word) (s : State),
    (mask.getLsbD 0 = true → v.getLsbD 0 = true → s.intcon4.getLsbD 0 = false →
      swWrite .intcon4 mask v s = { s with
        intcon4 := s.intcon4 ||| 0x0001#16
        hardEvents := { s.hardEvents with gen := true }
        hardHold := true }) ∧
    (mask.getLsbD 0 = true → v.getLsbD 0 = false → s.swtrap = false →
      swWrite .intcon4 mask v s = { s with intcon4 := s.intcon4 &&& 0xFFFE#16 }) ∧
    (mask.getLsbD 0 = true → v.getLsbD 0 = false → s.swtrap = true → ∃ b : Bool,
      swWrite .intcon4 mask v s = { s with
        intcon4 := if b then s.intcon4 ||| 0x0001#16 else s.intcon4 &&& 0xFFFE#16
        draws := s.draws + 1 }) ∧
    (mask.getLsbD 0 = false ∨ (v.getLsbD 0 = true ∧ s.intcon4.getLsbD 0 = true) →
      swWrite .intcon4 mask v s = s)

/-- R133: a software write of DISICNT takes effect while `DISI` is in effect, and 0 ends it; otherwise nothing is
disabled and the count is 0 or the written value.  A read returns the current count. -/
def Obligations.SoftwareWriteOfDisicnt : Prop :=
  ∀ (v : Word) (s : State),
    (s.disiInEffect = true → swWrite .disicnt 0xFFFF#16 v s =
      { s with disicnt := v.extractLsb' 0 14, disiActive := decide (v.extractLsb' 0 14 ≠ 0#14) }) ∧
    (s.disiInEffect = false → ∃ n d, swWrite .disicnt 0xFFFF#16 v s =
        { s with disicnt := n, disiActive := false, draws := d } ∧ (n = 0#14 ∨ n = v.extractLsb' 0 14)) ∧
    readSfr s .disicnt = (0#2 ++ s.disicnt : BitVec 16)

/-- R21, R52: a word written to SPLIM enables the stack overflow check, and no write disables it.  That a write of any
other mask, of a byte or of single bits, is no word write is the model's (log entry 42). -/
def Obligations.WordWriteOfSplimEnablesTheCheck : Prop :=
  ∀ (v : Word) (s : State),
    swWrite .splim 0xFFFF#16 v s = { s with splim := v, splimEnabled := true } ∧
    ∀ mask, mask ≠ 0xFFFF#16 → (swWrite .splim mask v s).splimEnabled = s.splimEnabled

/-- R28, R29, R190, R217, D13: in a software write of INTCON1 the implemented bits named take the written values and no
other bit changes; but a write of 0 to MATHERR under a persisting enabled accumulator overflow leaves it with any value.
A write that takes OSCFAIL or ADDRERR from 0 to 1 is a hard trap event; nothing else changes.  Without accumulators bits
14 to 7 are unimplemented, and whether bit 6 is too is a parameter of the device (log entry 12). -/
def Obligations.SoftwareWriteOfIntcon1 : Prop :=
  ∀ (mask v : Word) (s : State) (persists : Bool),
    (persists = true ↔ mask.getLsbD 4 = true ∧ v.getLsbD 4 = false ∧
      ((s.intcon1.getLsbD 10 = true ∧ s.sr.getLsbD 15 = true) ∨
        (s.intcon1.getLsbD 9 = true ∧ s.sr.getLsbD 14 = true))) →
    ∃ x : Word, swWrite .intcon1 mask v s = { s with
        intcon1 := x
        hardEvents := { s.hardEvents with
          osc := s.hardEvents.osc || (!s.intcon1.getLsbD 1 && x.getLsbD 1)
          addr := s.hardEvents.addr || (!s.intcon1.getLsbD 3 && x.getLsbD 3) }
        hardHold := s.hardHold || (!s.intcon1.getLsbD 1 && x.getLsbD 1) || (!s.intcon1.getLsbD 3 && x.getLsbD 3)
        draws := s.draws + (if persists then 1 else 0) } ∧
      ∀ i < 16, (i = 4 → persists = false) → x.getLsbD i =
        if mask.getLsbD i = true ∧
          (i = 15 ∨ (6 ≤ i ∧ i ≤ 14 ∧ s.dev.hasDsp = true) ∨ (i = 6 ∧ s.dev.div0errWithoutDsp = true) ∨
            (i = 5 ∧ s.dev.hasDma = true) ∨ (1 ≤ i ∧ i ≤ 4))
        then v.getLsbD i else s.intcon1.getLsbD i

/-! ## Trap causes -/

/-- R188, R29: a divide with a zero divisor sets DIV0ERR and MATHERR, whatever the enables are, and nothing else; any
other divisor sets nothing.  Only on a device without accumulators on which bit 6 is unimplemented (R29, D24), is MATHERR
set alone; that there may be such devices is the model's reading of R29 beside R186 and R188 (log entry 12). -/
def Obligations.DivideByZeroSetsItsFlags : Prop :=
  ∀ (inhibited : Bool) (divisor : Word) (s : State),
    (divisor = 0#16 → s.dev.hasDsp = true ∨ s.dev.div0errWithoutDsp = true →
      applyEffect inhibited (.divide divisor) s = { s with intcon1 := s.intcon1 ||| 0x0050#16 }) ∧
    (divisor = 0#16 → s.dev.hasDsp = false → s.dev.div0errWithoutDsp = false →
      applyEffect inhibited (.divide divisor) s = { s with intcon1 := s.intcon1 ||| 0x0010#16 }) ∧
    (divisor ≠ 0#16 → applyEffect inhibited (.divide divisor) s = s)

/-- R187, R189, R141, R186: with accumulators, an enabled overflow event sets its flag and MATHERR, one whose enable
is 0 sets nothing, and a shift count beyond 16 either way sets SFTACERR and MATHERR; without them none of these
exists. -/
def Obligations.AccumulatorCausesSetTheirFlags : Prop :=
  ∀ (inhibited : Bool) (s : State),
    (s.dev.hasDsp = true →
      applyEffect inhibited (.acc .overflowA) s = { s with
        intcon1 := s.intcon1 ||| (if s.intcon1.getLsbD 10 then 0x4010#16 else 0#16) } ∧
      applyEffect inhibited (.acc .overflowB) s = { s with
        intcon1 := s.intcon1 ||| (if s.intcon1.getLsbD 9 then 0x2010#16 else 0#16) } ∧
      applyEffect inhibited (.acc .catastrophicA) s = { s with
        intcon1 := s.intcon1 ||| (if s.intcon1.getLsbD 8 then 0x1010#16 else 0#16) } ∧
      applyEffect inhibited (.acc .catastrophicB) s = { s with
        intcon1 := s.intcon1 ||| (if s.intcon1.getLsbD 8 then 0x0810#16 else 0#16) } ∧
      ∀ count : Int, applyEffect inhibited (.sftac count) s = { s with
        intcon1 := s.intcon1 ||| (if 16 < count ∨ count < -16 then 0x0090#16 else 0#16) }) ∧
    (s.dev.hasDsp = false → (∀ e, applyEffect inhibited (.acc e) s = s) ∧
      ∀ count, applyEffect inhibited (.sftac count) s = s)

/-- R196, R142: a `DO` with the DO stack full (DL = 100) sets DOOVR and changes no DO state and nothing else; with a level
below 4 it nests one level deeper and raises nothing.  That both hold too where an access of the same instruction raises
the address error (`inhibited`) is the model's (log entry 46). -/
def Obligations.DoStackOverflow : Prop :=
  ∀ (inhibited : Bool) (s : State),
    (s.dl = 4#3 → applyEffect inhibited .doLoop s = { s with intcon3 := s.intcon3 ||| 0x0010#16 }) ∧
    (s.dl.toNat < 4 → ∃ x : Word, applyEffect inhibited .doLoop s = { s with corcon := x } ∧
      x.extractLsb' 8 3 = s.dl + 1#3 ∧ ∀ i, i < 8 ∨ 11 ≤ i → x.getLsbD i = s.corcon.getLsbD i)

/-- R90, R184, D22: an instruction outside the table that makes at most one data access and writes W15 at most once
sets STKERR exactly where the access forms its address from W15 and that address is below 0x1000, above an enabled
SPLIM or formed with a wrap, or where it uses W15, for an address or as its destination, and leaves it below 0x1000.
An instruction that does not use W15 is not checked. -/
def Obligations.StackChecks : Prop :=
  ∀ (a : Option DataAccess) (v : Option Word) (twoWords : Bool) (cycles : Nat) (target : Option ProgAddr)
    (s t : State), s.intcon1.getLsbD 2 = false →
    t = execForeign { twoWords := twoWords, cycles := cycles, target := target
                      effects := (a.map CpuEffect.access).toList ++ (v.map CpuEffect.w15Write).toList } s →
    (t.intcon1.getLsbD 2 = true ↔
      (∃ acc wraps, a = some acc ∧ acc.viaW15 = some wraps ∧
        (acc.ea.toNat < 0x1000 ∨ (s.splimEnabled = true ∧ s.splim.toNat < acc.ea.toNat) ∨ wraps = true)) ∨
      ((v.isSome = true ∨ ∃ acc wraps, a = some acc ∧ acc.viaW15 = some wraps) ∧ t.w15.toNat < 0x1000)) ∧
    ((∀ acc, a = some acc → accessFaults s acc.write acc.word acc.ea = false) → t.w15 = v.getD s.w15) ∧
    (v = none → t.w15 = s.w15)

/-- R80, R81, R86, U10: a word store at an even, implemented address changes that word and no other byte, the low byte
lying at the even address; a byte store at an implemented address, even or odd, changes that byte and no other; and
where W15 is not used neither raises anything.  A store at an unimplemented address changes no byte. -/
def Obligations.StoresWriteTheirBytes : Prop :=
  ∀ (ea v : Word) (s w b : State),
    w = applyEffect false (.access { write := true, word := true, ea := ea, value := v, viaW15 := none }) s →
    b = applyEffect false (.access { write := true, word := false, ea := ea, value := v, viaW15 := none }) s →
    (ea.getLsbD 0 = false → s.dataImpl ea = true →
      readWord w ea = v ∧ readByte w ea = v.extractLsb' 0 8 ∧ readByte w (ea + 1) = v.extractLsb' 8 8 ∧
      (∀ a, a ≠ ea → a ≠ ea + 1 → readByte w a = readByte s a) ∧
      w.intcon1 = s.intcon1 ∧ w.hardEvents = s.hardEvents) ∧
    (s.dataImpl ea = true →
      readByte b ea = v.extractLsb' 0 8 ∧ (∀ a, a ≠ ea → readByte b a = readByte s a) ∧
      b.intcon1 = s.intcon1 ∧ b.hardEvents = s.hardEvents) ∧
    (s.dataImpl ea = false → ∀ a, readByte w a = readByte s a ∧ readByte b a = readByte s a)

/-- R81, R86, R92, R93, R100, R200: an instruction with a misaligned word access, an access to an unimplemented
address (a write where the device traps it: U10, log entry 35), a MAC-class fetch from the other space or, which is the
model's, misaligned (log entry 44), or a paged access with page 0 raises the address error trap, and none of its
data-space writes happens.  That its software writes of registers count among those is the model's (log entry 27): no
register of the Interrupt Controller and no bit of CORCON that software can write changes; INTCON1 and INTCON3 only gain
the flags that hardware sets.  Not claimed to be kept are the registers that such an instruction writes itself: W15, SR
but IPL, which no such write reaches in the model (log entry 41), and CORCON's SFA (U9; log entry 28) and DL (log entry
46). -/
def Obligations.AddressErrorInhibitsTheWrites : Prop :=
  ∀ (f : Foreign) (s t : State), f.effects.any (effectFaults s) = true → t = execForeign f s →
    t.intcon1.getLsbD 3 = true ∧ t.hardEvents = { s.hardEvents with addr := true } ∧ t.hardHold = true ∧
    (∀ a, readByte t a = readByte s a) ∧ t.cpuWrites = s.cpuWrites ∧
    (∀ i, s.intcon1.getLsbD i = true → t.intcon1.getLsbD i = true) ∧
    (∀ i, i ∈ [0, 1, 5, 8, 9, 10, 15] → t.intcon1.getLsbD i = s.intcon1.getLsbD i) ∧
    (s.intcon3.getLsbD 4 = true → t.intcon3.getLsbD 4 = true) ∧
    (∀ i, i ≠ 4 → t.intcon3.getLsbD i = s.intcon3.getLsbD i) ∧
    t.intcon2 = s.intcon2 ∧ t.intcon4 = s.intcon4 ∧ t.ifs = s.ifs ∧ t.iec = s.iec ∧ t.ipc = s.ipc ∧
    t.inttreg = s.inttreg ∧ t.splim = s.splim ∧ t.splimEnabled = s.splimEnabled ∧ t.disicnt = s.disicnt ∧
    t.disiActive = s.disiActive ∧ t.trapr = s.trapr ∧ t.ipl = s.ipl ∧
    (∀ i, i ∉ [2, 8, 9, 10] → t.corcon.getLsbD i = s.corcon.getLsbD i) ∧ t.clockFail = s.clockFail ∧
    t.wctx = s.wctx ∧ t.power = s.power ∧ t.pinprev = s.pinprev ∧ t.prog = s.prog ∧ t.dev = s.dev

/-! ## The environment -/

/-- R195: a DMA access to an unimplemented address sets DAE and does nothing else; a read of an implemented one
changes nothing.  On a device without a DMA controller neither happens. -/
def Obligations.DmaAddressError : Prop :=
  ∀ (a : Word) (v : Byte) (c : Bool) (s : State),
    (s.dev.hasDma = true → s.dataImpl a = false →
      act (.dmaRead a) s = { s with intcon3 := s.intcon3 ||| 0x0020#16 } ∧
      act (.dmaWrite a v c) s = { s with intcon3 := s.intcon3 ||| 0x0020#16 }) ∧
    (s.dev.hasDma = true → s.dataImpl a = true → act (.dmaRead a) s = s) ∧
    (s.dev.hasDma = false → act (.dmaRead a) s = s ∧ act (.dmaWrite a v c) s = s)

/-- R97, R191: a DMA write that coincides with a CPU write to the same address is ignored and sets DMACERR; any other
DMA write to an implemented address stores its byte there and changes nothing else.  That the accesses are bytes, so
that a write beside the CPU's is no collision, is the model's (log entry 29). -/
def Obligations.CpuWinsTheWriteCollision : Prop :=
  ∀ (a : Word) (v : Byte) (c : Bool) (s : State), s.dev.hasDma = true → s.dataImpl a = true →
    (c = true → a ∈ s.cpuWrites → act (.dmaWrite a v c) s = { s with intcon1 := s.intcon1 ||| 0x0020#16 }) ∧
    (c = false ∨ a ∉ s.cpuWrites → ∃ m, act (.dmaWrite a v c) s = { s with data := m } ∧
      ∀ b, readByte ({ s with data := m } : State) b = if b = a then v else readByte s b)

/-- R194, R197, R193, R199, R42: the actions of the USB module, the PLLs, the NVM controller and the oscillator.  A USB
access to an unimplemented address, in particular to any of the 512 bytes of the Buffer Descriptor Table, sets UAE and
does nothing else; one to implemented memory sets no flag.  A loss of lock of the USB PLL sets USBPLL and one of the
auxiliary PLL sets APLL, on a device that has them; an NVM address error sets NAE; an oscillator failure sets OSCFAIL
and OSCCON.CF and is a hard trap event; otherwise CF is the oscillator's own.  The model's are: that an address above
0xFFFF is unimplemented (log entry 30), that USB accesses are bytes (29), USBPLL at bit 1 (11), CF changed by the
oscillator only (36). -/
def Obligations.UsbOscillatorPllAndNvmActions : Prop :=
  ∀ (start : BitVec 32) (a : Word) (v : Byte) (cf : Bool) (s : State),
    (s.dev.hasUsb = true →
      ((∃ i < 512, 0xFFFF < start.toNat + i ∨ inRanges s.dev.dataRanges (start.toNat + i) = false) →
        act (.usbBdt start) s = { s with intcon3 := s.intcon3 ||| 0x0040#16 }) ∧
      ((∀ i < 512, start.toNat + i ≤ 0xFFFF ∧ inRanges s.dev.dataRanges (start.toNat + i) = true) →
        act (.usbBdt start) s = s) ∧
      (s.dataImpl a = false → act (.usbRead a) s = { s with intcon3 := s.intcon3 ||| 0x0040#16 } ∧
        act (.usbWrite a v) s = { s with intcon3 := s.intcon3 ||| 0x0040#16 }) ∧
      (s.dataImpl a = true → act (.usbRead a) s = s ∧ ∃ m, act (.usbWrite a v) s = { s with data := m } ∧
        ∀ b, readByte ({ s with data := m } : State) b = if b = a then v else readByte s b) ∧
      act .usbPllLoss s = { s with intcon3 := s.intcon3 ||| 0x0002#16 }) ∧
    (s.dev.hasUsb = false →
      act (.usbBdt start) s = s ∧ act (.usbRead a) s = s ∧ act (.usbWrite a v) s = s ∧ act .usbPllLoss s = s) ∧
    act .auxPllLoss s = { s with intcon3 := s.intcon3 ||| (if s.dev.hasApll then 0x0001#16 else 0#16) } ∧
    act .nvmAddressError s = { s with intcon3 := s.intcon3 ||| 0x0100#16 } ∧
    act .oscFail s = { s with
      intcon1 := s.intcon1 ||| 0x0002#16
      clockFail := true
      hardEvents := { s.hardEvents with osc := true }
      hardHold := true } ∧
    act (.clockFail cf) s = { s with clockFail := cf }

/-- R240: at a sample of the pins, the flag of EXTIRQ(i) is set where pin i, of those the device has, shows the edge
its polarity bit selects; every other flag keeps its value, `pinprev` becomes the sampled levels, and nothing else
changes. -/
def Obligations.PinEdgesSetTheirFlags : Prop :=
  ∀ (levels : BitVec 5) (s : State), ∃ b, samplePins levels s = { s with ifs := b, pinprev := levels } ∧
    ∀ k, ({ s with ifs := b } : State).flag k = true ↔
      s.flag k = true ∨ (s.dev.impl k = true ∧ ∃ i < 5, i < s.dev.nextint ∧ s.dev.extIrq[i]? = some k ∧
        ((s.intcon2.getLsbD i = false ∧ s.pinprev.getLsbD i = false ∧ levels.getLsbD i = true) ∨
          (s.intcon2.getLsbD i = true ∧ s.pinprev.getLsbD i = true ∧ levels.getLsbD i = false)))

/-- R35, R160: a peripheral's request sets the flag of its implemented vector and changes nothing else, whatever the
enable and the level are. -/
def Obligations.PeripheralRequestSetsItsFlag : Prop :=
  ∀ (k : Nat) (s : State), ∃ b, act (.irq k) s = { s with ifs := b } ∧
    ∀ j, ({ s with ifs := b } : State).flag j = true ↔ s.flag j = true ∨ (j = k ∧ s.dev.impl k = true)

/-! ## Arbitration -/

/-- R180, R162, R181, R192, R202: each trap's level, vector number, class (hard or soft) and request flag, for the
generic traps the OR of the implemented bits of their register; interrupt k has vector number k + 8.  Level 9 or 8 for
the generic soft trap is D3 (log entry 35), USBPLL at bit 1 log entry 11. -/
def Obligations.TrapTable : Prop :=
  (∀ s : State,
    let row : Trap → BitVec 4 → Nat → Bool → Bool → Prop := fun t level vector hard flag =>
      t.level s.dev = level ∧ t.vector = vector ∧ t.hard = hard ∧ s.trapFlag t = flag
    row .oscillator 15#4 0 true (s.intcon1.getLsbD 1) ∧
    row .address 14#4 1 true (s.intcon1.getLsbD 3) ∧
    row .genericHard 13#4 2 true (s.intcon4.getLsbD 0) ∧
    row .stack 12#4 3 false (s.intcon1.getLsbD 2) ∧
    row .math 11#4 4 false (s.intcon1.getLsbD 4) ∧
    row .dmac 10#4 5 false (s.dev.hasDma && s.intcon1.getLsbD 5) ∧
    row .genericSoft (if s.dev.gstAtEight then 8#4 else 9#4) 6 false
      (s.intcon3.getLsbD 8 || s.intcon3.getLsbD 4 || (s.dev.hasDma && s.intcon3.getLsbD 5) ||
        (s.dev.hasUsb && (s.intcon3.getLsbD 6 || s.intcon3.getLsbD 1)) ||
        (s.dev.hasApll && s.intcon3.getLsbD 0))) ∧
  (∀ t : Trap, (Source.trap t).vector = t.vector) ∧ (∀ k, (Source.irq k).vector = k + 8)

/-- R173: trap t is presented exactly where its flag is 1, its level is above the CPU's and every other such trap has
a lower level.  Interrupt k is presented exactly where no trap is, k is eligible (implemented, flagged, enabled,
globally enabled, of a level strictly above the CPU's, and of level 7 while `DISI` is in effect) and every other
eligible interrupt has a lower level, or the same level and a higher number.  With nothing eligible, nothing is. -/
def Obligations.WinnerIsTheFirstEligible : Prop :=
  ∀ s : State,
    let trap : Trap → Prop := fun t => s.trapFlag t = true ∧ s.cpl.toNat < (t.level s.dev).toNat
    let irq : Nat → Prop := fun k =>
      s.dev.impl k = true ∧ s.flag k = true ∧ s.enable k = true ∧ (s.gie = true ∨ s.gieEff = true) ∧
      s.cpl.toNat < (s.level k).toNat ∧ ((s.disiActive && decide (s.disicnt ≠ 0#14)) = true → s.level k = 7#3)
    (∀ t, winner s = some (.trap t) ↔
      trap t ∧ ∀ u, u ≠ t → trap u → (u.level s.dev).toNat < (t.level s.dev).toNat) ∧
    (∀ k, winner s = some (.irq k) ↔
      (∀ t, ¬ trap t) ∧ irq k ∧ ∀ j, j ≠ k → irq j →
        (s.level j).toNat < (s.level k).toNat ∨ ((s.level j).toNat = (s.level k).toNat ∧ k < j)) ∧
    (winner s = none ↔ (∀ t, ¬ trap t) ∧ ∀ k, ¬ irq k)

/-- R169: an interrupt of level 0 is never presented and wakes nothing, yet its peripheral's request still sets its
flag, which software can read.  That the flag of vector k is read at bit k mod 16 of IFS register k div 16 is D6's map
(log entry 21). -/
def Obligations.LevelZeroIsDisabled : Prop :=
  ∀ (s : State) (k : Nat), s.level k = 0#3 →
    winner s ≠ some (.irq k) ∧
    ((∀ t, eligibleTrap s t = false) → (∀ j, j ≠ k → s.req j = false) → wakes s = false) ∧
    (s.dev.impl k = true → (act (.irq k) s).flag k = true ∧
      ∀ x : Fin 16, x.val = k / 16 → (readSfr (act (.irq k) s) (.ifs x)).getLsbD (k % 16) = true)

/-- R168, R175: at a CPU level of 7 or more, and with GIE off for more than one instruction, no interrupt is
presented; at level 15 nothing is. -/
def Obligations.MaskedLevels : Prop :=
  ∀ s : State,
    (7 ≤ s.cpl.toNat → ∀ k, winner s ≠ some (.irq k)) ∧
    (s.gie = false → s.gieEff = false → ∀ k, winner s ≠ some (.irq k)) ∧
    (s.cpl.toNat = 15 → winner s = none)

/-! ## Taking an exception -/

/-- R163, R164, R165, R162: the slot read is the auxiliary vector while `pc` lies in Auxiliary Flash; elsewhere it is
at VectorBase + 4 + 2n, the base being 0 or, where the AIVT is usable and selected, (BSPAGES - 1) * 0x400.  The DMAC
error trap has no slot in the AIVT (U3) unless the device reads it, and its acknowledge there stops the machine. -/
def Obligations.VectorSlotAddress : Prop :=
  ∀ (x : Source) (s : State) (pages : Nat) (aivt : Prop), pages = 0x1FFF - s.dev.bslim.toNat →
    (aivt ↔ s.dev.hasAivt = true ∧ s.dev.aivtCfg = true ∧ s.intcon2.getLsbD 8 = true ∧ 2 ≤ pages) →
    (∀ f, s.dev.auxFlash = some f → f.low ≤ s.pc.toNat → s.pc.toNat ≤ f.high → vectorSlot x s = some f.vector) ∧
    ((∀ f, s.dev.auxFlash = some f → s.pc.toNat < f.low ∨ f.high < s.pc.toNat) →
      (¬ aivt → vectorSlot x s = some (BitVec.ofNat 24 (4 + 2 * x.vector))) ∧
      (aivt → x ≠ .trap .dmac ∨ s.dev.aivtDmacSlot = true →
        vectorSlot x s = some (BitVec.ofNat 24 ((pages - 1) * 0x400 + 4 + 2 * x.vector))) ∧
      (aivt → x = .trap .dmac → s.dev.aivtDmacSlot = false →
        vectorSlot x s = none ∧ ∀ stalls, acknowledge stalls x s = .fault .dmacVectorReserved))

/-- R163: outside Auxiliary Flash every source has a slot of its own. -/
def Obligations.VectorSlotsAreUnique : Prop :=
  ∀ (x y : Source) (s : State) (slot : ProgAddr), s.inAuxFlash = none → x.vector < 254 → y.vector < 254 →
    vectorSlot x s = some slot → vectorSlot y s = some slot → x = y

/-- R225, R229: taking an exception on a writable stack stores PC<15:1> with SFA at the old W15 and SRL, IPL3 and
PC<22:16> above it, moves W15 up by 4, and leaves every other byte of memory alone. -/
def Obligations.EntryStacksTheFrame : Prop :=
  ∀ (x : Source) (s : State), StackWritable s → SlotExists x s →
    ∃ t, takeException x s = .next t ∧ t.w15 = s.w15 + 4 ∧
      readWord t s.w15 = (s.pc.extractLsb' 1 15 ++ BitVec.ofBool (s.corcon.getLsbD 2) : BitVec 16) ∧
      readWord t (s.w15 + 2) =
        (s.sr.extractLsb' 0 8 ++ BitVec.ofBool (s.corcon.getLsbD 3) ++ s.pc.extractLsb' 16 7 : BitVec 16) ∧
      ∀ a, a ≠ s.w15 → a ≠ s.w15 + 1 → a ≠ s.w15 + 2 → a ≠ s.w15 + 3 → readByte t a = readByte s a

/-- U8, D31, R229: with W15 odd the entry still completes, storing nothing, and the address error trap is raised as
a new event. -/
def Obligations.EntryWithAnOddStackPointer : Prop :=
  ∀ (x : Source) (s : State), s.w15.getLsbD 0 = true → SlotExists x s →
    ∃ t, takeException x s = .next t ∧ t.w15 = s.w15 + 4 ∧ (∀ a, readByte t a = readByte s a) ∧
      t.intcon1.getLsbD 3 = true ∧ t.hardHold = true ∧ t.hardEvents = { HardEvents.none with addr := true }

/-- R226, R234, R229: a trap of level L leaves the CPU at level L; an interrupt leaves IPL3 as it is and IPL at its
level, or at 7 with NSTDIS set; SFA is cleared; no other bit of SR or CORCON changes. -/
def Obligations.EntryRaisesThePriority : Prop :=
  ∀ (x : Source) (s : State), SlotExists x s →
    ∃ t, takeException x s = .next t ∧
      (∀ tr, x = .trap tr → t.cpl = tr.level s.dev) ∧
      (∀ k, x = .irq k → t.ipl3 = s.ipl3 ∧ t.ipl = if s.nstdis then 7#3 else s.level k) ∧
      t.sfa = false ∧
      (∀ i, i < 5 ∨ 8 ≤ i → t.sr.getLsbD i = s.sr.getLsbD i) ∧
      (∀ i, i ≠ 2 → i ≠ 3 → t.corcon.getLsbD i = s.corcon.getLsbD i)

/-- R231, R90, R81: the exception process clears no interrupt flag and no trap flag and does not change IFSx, IECx, IPCx,
INTCON2 to INTCON4, DISICNT, SPLIM or the power mode.  In INTCON1 it sets STKERR exactly where its pushes violate a stack
limit (E6, E7), and ADDRERR exactly where one of them is misaligned or, on a device that traps such writes, unimplemented
(U8, U10), which is then the one hard trap event that waits (log entry 26). -/
def Obligations.EntryKeepsTheRest : Prop :=
  ∀ (x : Source) (s t : State), takeException x s = .next t →
    t.intcon1 = s.intcon1 ||| (if pushesViolate s then 0x0004#16 else 0#16) |||
      (if pushesFault s then 0x0008#16 else 0#16) ∧
    t.hardHold = pushesFault s ∧ t.hardEvents = { HardEvents.none with addr := pushesFault s } ∧
    t.ifs = s.ifs ∧ t.iec = s.iec ∧ t.ipc = s.ipc ∧ t.intcon2 = s.intcon2 ∧ t.intcon3 = s.intcon3 ∧
    t.intcon4 = s.intcon4 ∧ t.disicnt = s.disicnt ∧ t.disiActive = s.disiActive ∧ t.splim = s.splim ∧
    t.splimEnabled = s.splimEnabled ∧ t.trapr = s.trapr ∧ t.clockFail = s.clockFail ∧ t.power = s.power ∧
    t.pinprev = s.pinprev ∧ t.gieEff = s.gieEff ∧ t.prog = s.prog ∧ t.dev = s.dev

/-- R227: the acknowledge of interrupt k latches VECNUM = k and ILR = the source's level, with NSTDIS set too. -/
def Obligations.EntryLatchesTheInterrupt : Prop :=
  ∀ (k : Nat) (s : State), k < 256 →
    ∃ t, takeException (.irq k) s = .next t ∧ (t.inttreg.extractLsb' 0 8).toNat = k ∧
      t.inttreg.extractLsb' 8 4 = (s.level k).setWidth 4 ∧ t.inttreg.extractLsb' 12 4 = 0#4

/-- R228, R111: the 24-bit content of the slot becomes `pc`, with bits 23 and 0 dropped. -/
def Obligations.EntryLoadsTheVector : Prop :=
  ∀ (x : Source) (s : State) (slot : ProgAddr), vectorSlot x s = some slot → s.progImpl slot = true →
    ∃ t, takeException x s = .next t ∧
      t.pc = (0#1 ++ (memRead unprogrammedWord s.prog slot.toNat).extractLsb' 1 22 ++ 0#1 : BitVec 24)

/-- R235: an interrupt entry with nesting enabled uses the one alternate set whose CTXT level is the source's;
without alternate sets the default set is used. -/
def Obligations.EntrySelectsTheRegisterSet : Prop :=
  ∀ (k : Nat) (s : State) (level : BitVec 4), level = (s.level k).setWidth 4 →
    ∃ t, takeException (.irq k) s = .next t ∧
      (s.dev.hasAltW = false → t.wctx = .default) ∧
      (s.dev.hasAltW = true → s.nstdis = false →
        ctxLevel (Device.ctxt1 s.dev) = some level → ctxLevel (Device.ctxt2 s.dev) ≠ some level → t.wctx = .alt1) ∧
      (s.dev.hasAltW = true → s.nstdis = false →
        ctxLevel (Device.ctxt2 s.dev) = some level → ctxLevel (Device.ctxt1 s.dev) ≠ some level → t.wctx = .alt2)

/-- R174: after the entry of interrupt k, only an interrupt of a strictly higher level is eligible; every other
request remains pending. -/
def Obligations.SameLevelDoesNotPreempt : Prop :=
  ∀ (k : Nat) (s t : State), takeException (.irq k) s = .next t →
    (∀ j, eligibleIrq t j = true → (s.level k).toNat < (s.level j).toNat) ∧ ∀ j, t.req j = s.req j

/-- R130, R232: `RETFIE` right after an entry returns to the interrupted state: PC, SR, CORCON and W15 are as they
were. -/
def Obligations.RetfieUndoesTheEntry : Prop :=
  ∀ (x : Source) (s : State), StackWritable s → SlotExists x s → s.pc.getLsbD 0 = false → s.pc.getLsbD 23 = false →
    ∃ t u, takeException x s = .next t ∧ exec .retfie t = .next u ∧
      u.pc = s.pc ∧ u.sr = s.sr ∧ u.corcon = s.corcon ∧ u.w15 = s.w15

/-! ## Acknowledge, hard traps, wake-up -/

/-- R132, R317, R320: n cycles lower DISICNT by n, not below 0, and at 0 the effect of `DISI` ends; nothing else but the
cycle counter changes.  The exception process counts its own cycles so: 13 of them with VAR = 0, from 9 to 13 with
VAR = 1, and the stalls of the boundary (log entries 14 and 15). -/
def Obligations.CyclesCountDownDisicnt : Prop :=
  (∀ (n : Nat) (s : State), ∃ c, tick n s = { s with
      disicnt := c
      disiActive := s.disiActive && decide (c ≠ 0#14)
      cycleCount := s.cycleCount + n } ∧
    c.toNat = s.disicnt.toNat - n) ∧
  (∀ (stalls : Nat) (x : Source) (s t : State), takeException x s = .next t →
    ∃ n c d, acknowledge stalls x s = .next { t with
        disicnt := c
        disiActive := s.disiActive && decide (c ≠ 0#14)
        cycleCount := s.cycleCount + n
        draws := d } ∧
      c.toNat = s.disicnt.toNat - n ∧
      (s.var = false → n = 13 + stalls) ∧ (s.var = true → 9 + stalls ≤ n ∧ n ≤ 13 + stalls))

/-- R161, R224, R183: at one boundary with a presented exception, a hard trap is acknowledged; an interrupt or soft trap
is acknowledged, or one more instruction runs with `skid` one higher while `skid` is below SKID_MAX, and is acknowledged
where it is not. -/
def Obligations.AcknowledgeOrOneMoreInstruction : Prop :=
  ∀ (s : State) (x : Source), hardOutcome s.atBoundary = .none → s.atBoundary.power = .run →
    winner s.atBoundary = some x →
    (x.hard = true ∨ s.dev.skidMax ≤ s.atBoundary.skid → step s = acknowledge s.boundary.stalls x s.atBoundary) ∧
    (x.hard = false → s.atBoundary.skid < s.dev.skidMax →
      step s = acknowledge s.boundary.stalls x { s.atBoundary with draws := s.atBoundary.draws + 1 } ∨
      step s = fetchAndRun s.boundary
        { s.atBoundary with skid := s.atBoundary.skid + 1, draws := s.atBoundary.draws + 1 })

/-- R198, R217: the one hard trap event of a boundary, of a level above the CPU's, is acknowledged there: no
instruction runs, W15 moves up by 4, the CPU is at the trap's level, and on a writable stack the two words of the frame
hold the interrupted `pc`, SFA, SRL and IPL3, and no event waits any more.  That it also wakes a CPU in Sleep or Idle is D17's and U18's (log entry
31). -/
def Obligations.HardTrapIsTakenAtOnce : Prop :=
  ∀ (s : State) (tr : Trap), s.atBoundary.hardHold = true → HardEvents.traps s.atBoundary.hardEvents = [tr] →
    s.atBoundary.cpl.toNat < (tr.level s.dev).toNat →
    ∃ t, step s = .next t ∧ t.cpl = tr.level s.dev ∧ t.w15 = s.atBoundary.w15 + 4 ∧ t.skid = 0 ∧ t.power = .run ∧
      (StackWritable s.atBoundary → t.hardHold = false ∧ t.hardEvents = .none ∧
        readWord t s.atBoundary.w15 =
          (s.atBoundary.pc.extractLsb' 1 15 ++ BitVec.ofBool s.atBoundary.sfa : BitVec 16) ∧
        readWord t (s.atBoundary.w15 + 2) =
          (s.atBoundary.sr.extractLsb' 0 8 ++ BitVec.ofBool s.atBoundary.ipl3 ++ s.atBoundary.pc.extractLsb' 16 7
            : BitVec 16))

/-- R217, R218, R294, U19: two or more hard trap events at one boundary, or one of a level below the CPU's, reset the
device, with TRAPR set; one event at the level the CPU is at, for which the source defines no outcome, stops the
machine. -/
def Obligations.HardTrapConflictResets : Prop :=
  ∀ s : State, s.atBoundary.hardHold = true →
    (2 ≤ (HardEvents.traps s.atBoundary.hardEvents).length ∨
        (∃ tr ∈ HardEvents.traps s.atBoundary.hardEvents, (tr.level s.dev).toNat < s.atBoundary.cpl.toNat) →
      ∃ t, step s = .next t ∧ ResetValues t ∧ t.trapr = true) ∧
    (∀ tr, HardEvents.traps s.atBoundary.hardEvents = [tr] → tr.level s.dev = s.atBoundary.cpl →
      step s = .fault .hardTrapAtOwnLevel)

/-- R237, R238, R239: in Sleep or Idle a flagged and enabled source of level 1 or more wakes the CPU, whatever GIE,
`DISI` and its level against the CPU's, and so does an eligible trap (D17); then the ordinary arbitration runs.  Without
either the CPU stays in the mode and executes nothing.  DISICNT holds any value up to the old one after the wake-up
(U12); both are log entry 31's. -/
def Obligations.WakeUpCondition : Prop :=
  ∀ s : State, hardOutcome s.atBoundary = .none → s.atBoundary.power ≠ .run →
    ((∀ t, eligibleTrap s.atBoundary t = false) →
      (∀ k, s.atBoundary.req k = true → s.atBoundary.level k = 0#3) → step s = .next s.atBoundary) ∧
    ((∃ t, eligibleTrap s.atBoundary t = true) ∨
        (∃ k, s.atBoundary.req k = true ∧ s.atBoundary.level k ≠ 0#3) →
      ∃ n : BitVec 14, n.toNat ≤ s.atBoundary.disicnt.toNat ∧ step s = arbitrate s.boundary { s.atBoundary with
        power := .run
        disicnt := n
        disiActive := s.atBoundary.disiActive && decide (n ≠ 0#14)
        draws := s.atBoundary.draws + 1 })

end Statements
end

