-- ==== Sys2Proof/Laws/State.lean ====
section
/-!
SUPPORT. The fields that each named operation leaves alone: one lemma for each field and operation, so that
no proof unfolds a record update.
-/

namespace Sys2Proof.Machine

/-! `raise1` -/

section
variable (b : Word) (s : State)

@[simp] theorem raise1_pc : (raise1 b s).pc = s.pc := rfl
@[simp] theorem raise1_w15 : (raise1 b s).w15 = s.w15 := rfl
@[simp] theorem raise1_splim : (raise1 b s).splim = s.splim := rfl
@[simp] theorem raise1_splimEnabled : (raise1 b s).splimEnabled = s.splimEnabled := rfl
@[simp] theorem raise1_sr : (raise1 b s).sr = s.sr := rfl
@[simp] theorem raise1_corcon : (raise1 b s).corcon = s.corcon := rfl
@[simp] theorem raise1_wctx : (raise1 b s).wctx = s.wctx := rfl
@[simp] theorem raise1_intcon2 : (raise1 b s).intcon2 = s.intcon2 := rfl
@[simp] theorem raise1_intcon3 : (raise1 b s).intcon3 = s.intcon3 := rfl
@[simp] theorem raise1_intcon4 : (raise1 b s).intcon4 = s.intcon4 := rfl
@[simp] theorem raise1_ifs : (raise1 b s).ifs = s.ifs := rfl
@[simp] theorem raise1_iec : (raise1 b s).iec = s.iec := rfl
@[simp] theorem raise1_ipc : (raise1 b s).ipc = s.ipc := rfl
@[simp] theorem raise1_inttreg : (raise1 b s).inttreg = s.inttreg := rfl
@[simp] theorem raise1_disicnt : (raise1 b s).disicnt = s.disicnt := rfl
@[simp] theorem raise1_disiActive : (raise1 b s).disiActive = s.disiActive := rfl
@[simp] theorem raise1_trapr : (raise1 b s).trapr = s.trapr := rfl
@[simp] theorem raise1_clockFail : (raise1 b s).clockFail = s.clockFail := rfl
@[simp] theorem raise1_hardHold : (raise1 b s).hardHold = s.hardHold := rfl
@[simp] theorem raise1_hardEvents : (raise1 b s).hardEvents = s.hardEvents := rfl
@[simp] theorem raise1_power : (raise1 b s).power = s.power := rfl
@[simp] theorem raise1_pinprev : (raise1 b s).pinprev = s.pinprev := rfl
@[simp] theorem raise1_gieEff : (raise1 b s).gieEff = s.gieEff := rfl
@[simp] theorem raise1_skid : (raise1 b s).skid = s.skid := rfl
@[simp] theorem raise1_cycleCount : (raise1 b s).cycleCount = s.cycleCount := rfl
@[simp] theorem raise1_data : (raise1 b s).data = s.data := rfl
@[simp] theorem raise1_prog : (raise1 b s).prog = s.prog := rfl
@[simp] theorem raise1_dev : (raise1 b s).dev = s.dev := rfl
@[simp] theorem raise1_inputs : (raise1 b s).inputs = s.inputs := rfl
@[simp] theorem raise1_cpuWrites : (raise1 b s).cpuWrites = s.cpuWrites := rfl
@[simp] theorem raise1_draws : (raise1 b s).draws = s.draws := rfl

end

/-! `raise3` -/

section
variable (b : Word) (s : State)

@[simp] theorem raise3_pc : (raise3 b s).pc = s.pc := rfl
@[simp] theorem raise3_w15 : (raise3 b s).w15 = s.w15 := rfl
@[simp] theorem raise3_splim : (raise3 b s).splim = s.splim := rfl
@[simp] theorem raise3_splimEnabled : (raise3 b s).splimEnabled = s.splimEnabled := rfl
@[simp] theorem raise3_sr : (raise3 b s).sr = s.sr := rfl
@[simp] theorem raise3_corcon : (raise3 b s).corcon = s.corcon := rfl
@[simp] theorem raise3_wctx : (raise3 b s).wctx = s.wctx := rfl
@[simp] theorem raise3_intcon1 : (raise3 b s).intcon1 = s.intcon1 := rfl
@[simp] theorem raise3_intcon2 : (raise3 b s).intcon2 = s.intcon2 := rfl
@[simp] theorem raise3_intcon4 : (raise3 b s).intcon4 = s.intcon4 := rfl
@[simp] theorem raise3_ifs : (raise3 b s).ifs = s.ifs := rfl
@[simp] theorem raise3_iec : (raise3 b s).iec = s.iec := rfl
@[simp] theorem raise3_ipc : (raise3 b s).ipc = s.ipc := rfl
@[simp] theorem raise3_inttreg : (raise3 b s).inttreg = s.inttreg := rfl
@[simp] theorem raise3_disicnt : (raise3 b s).disicnt = s.disicnt := rfl
@[simp] theorem raise3_disiActive : (raise3 b s).disiActive = s.disiActive := rfl
@[simp] theorem raise3_trapr : (raise3 b s).trapr = s.trapr := rfl
@[simp] theorem raise3_clockFail : (raise3 b s).clockFail = s.clockFail := rfl
@[simp] theorem raise3_hardHold : (raise3 b s).hardHold = s.hardHold := rfl
@[simp] theorem raise3_hardEvents : (raise3 b s).hardEvents = s.hardEvents := rfl
@[simp] theorem raise3_power : (raise3 b s).power = s.power := rfl
@[simp] theorem raise3_pinprev : (raise3 b s).pinprev = s.pinprev := rfl
@[simp] theorem raise3_gieEff : (raise3 b s).gieEff = s.gieEff := rfl
@[simp] theorem raise3_skid : (raise3 b s).skid = s.skid := rfl
@[simp] theorem raise3_cycleCount : (raise3 b s).cycleCount = s.cycleCount := rfl
@[simp] theorem raise3_data : (raise3 b s).data = s.data := rfl
@[simp] theorem raise3_prog : (raise3 b s).prog = s.prog := rfl
@[simp] theorem raise3_dev : (raise3 b s).dev = s.dev := rfl
@[simp] theorem raise3_inputs : (raise3 b s).inputs = s.inputs := rfl
@[simp] theorem raise3_cpuWrites : (raise3 b s).cpuWrites = s.cpuWrites := rfl
@[simp] theorem raise3_draws : (raise3 b s).draws = s.draws := rfl

end

/-! `raiseStackIf` -/

section
variable (b : Bool) (s : State)

@[simp] theorem raiseStackIf_pc : (raiseStackIf b s).pc = s.pc := rfl
@[simp] theorem raiseStackIf_w15 : (raiseStackIf b s).w15 = s.w15 := rfl
@[simp] theorem raiseStackIf_splim : (raiseStackIf b s).splim = s.splim := rfl
@[simp] theorem raiseStackIf_splimEnabled : (raiseStackIf b s).splimEnabled = s.splimEnabled := rfl
@[simp] theorem raiseStackIf_sr : (raiseStackIf b s).sr = s.sr := rfl
@[simp] theorem raiseStackIf_corcon : (raiseStackIf b s).corcon = s.corcon := rfl
@[simp] theorem raiseStackIf_wctx : (raiseStackIf b s).wctx = s.wctx := rfl
@[simp] theorem raiseStackIf_intcon2 : (raiseStackIf b s).intcon2 = s.intcon2 := rfl
@[simp] theorem raiseStackIf_intcon3 : (raiseStackIf b s).intcon3 = s.intcon3 := rfl
@[simp] theorem raiseStackIf_intcon4 : (raiseStackIf b s).intcon4 = s.intcon4 := rfl
@[simp] theorem raiseStackIf_ifs : (raiseStackIf b s).ifs = s.ifs := rfl
@[simp] theorem raiseStackIf_iec : (raiseStackIf b s).iec = s.iec := rfl
@[simp] theorem raiseStackIf_ipc : (raiseStackIf b s).ipc = s.ipc := rfl
@[simp] theorem raiseStackIf_inttreg : (raiseStackIf b s).inttreg = s.inttreg := rfl
@[simp] theorem raiseStackIf_disicnt : (raiseStackIf b s).disicnt = s.disicnt := rfl
@[simp] theorem raiseStackIf_disiActive : (raiseStackIf b s).disiActive = s.disiActive := rfl
@[simp] theorem raiseStackIf_trapr : (raiseStackIf b s).trapr = s.trapr := rfl
@[simp] theorem raiseStackIf_clockFail : (raiseStackIf b s).clockFail = s.clockFail := rfl
@[simp] theorem raiseStackIf_hardHold : (raiseStackIf b s).hardHold = s.hardHold := rfl
@[simp] theorem raiseStackIf_hardEvents : (raiseStackIf b s).hardEvents = s.hardEvents := rfl
@[simp] theorem raiseStackIf_power : (raiseStackIf b s).power = s.power := rfl
@[simp] theorem raiseStackIf_pinprev : (raiseStackIf b s).pinprev = s.pinprev := rfl
@[simp] theorem raiseStackIf_gieEff : (raiseStackIf b s).gieEff = s.gieEff := rfl
@[simp] theorem raiseStackIf_skid : (raiseStackIf b s).skid = s.skid := rfl
@[simp] theorem raiseStackIf_cycleCount : (raiseStackIf b s).cycleCount = s.cycleCount := rfl
@[simp] theorem raiseStackIf_data : (raiseStackIf b s).data = s.data := rfl
@[simp] theorem raiseStackIf_prog : (raiseStackIf b s).prog = s.prog := rfl
@[simp] theorem raiseStackIf_dev : (raiseStackIf b s).dev = s.dev := rfl
@[simp] theorem raiseStackIf_inputs : (raiseStackIf b s).inputs = s.inputs := rfl
@[simp] theorem raiseStackIf_cpuWrites : (raiseStackIf b s).cpuWrites = s.cpuWrites := rfl
@[simp] theorem raiseStackIf_draws : (raiseStackIf b s).draws = s.draws := rfl

end

/-! `raiseAddressIf` -/

section
variable (b : Bool) (s : State)

@[simp] theorem raiseAddressIf_pc : (raiseAddressIf b s).pc = s.pc := rfl
@[simp] theorem raiseAddressIf_w15 : (raiseAddressIf b s).w15 = s.w15 := rfl
@[simp] theorem raiseAddressIf_splim : (raiseAddressIf b s).splim = s.splim := rfl
@[simp] theorem raiseAddressIf_splimEnabled : (raiseAddressIf b s).splimEnabled = s.splimEnabled := rfl
@[simp] theorem raiseAddressIf_sr : (raiseAddressIf b s).sr = s.sr := rfl
@[simp] theorem raiseAddressIf_corcon : (raiseAddressIf b s).corcon = s.corcon := rfl
@[simp] theorem raiseAddressIf_wctx : (raiseAddressIf b s).wctx = s.wctx := rfl
@[simp] theorem raiseAddressIf_intcon2 : (raiseAddressIf b s).intcon2 = s.intcon2 := rfl
@[simp] theorem raiseAddressIf_intcon3 : (raiseAddressIf b s).intcon3 = s.intcon3 := rfl
@[simp] theorem raiseAddressIf_intcon4 : (raiseAddressIf b s).intcon4 = s.intcon4 := rfl
@[simp] theorem raiseAddressIf_ifs : (raiseAddressIf b s).ifs = s.ifs := rfl
@[simp] theorem raiseAddressIf_iec : (raiseAddressIf b s).iec = s.iec := rfl
@[simp] theorem raiseAddressIf_ipc : (raiseAddressIf b s).ipc = s.ipc := rfl
@[simp] theorem raiseAddressIf_inttreg : (raiseAddressIf b s).inttreg = s.inttreg := rfl
@[simp] theorem raiseAddressIf_disicnt : (raiseAddressIf b s).disicnt = s.disicnt := rfl
@[simp] theorem raiseAddressIf_disiActive : (raiseAddressIf b s).disiActive = s.disiActive := rfl
@[simp] theorem raiseAddressIf_trapr : (raiseAddressIf b s).trapr = s.trapr := rfl
@[simp] theorem raiseAddressIf_clockFail : (raiseAddressIf b s).clockFail = s.clockFail := rfl
@[simp] theorem raiseAddressIf_power : (raiseAddressIf b s).power = s.power := rfl
@[simp] theorem raiseAddressIf_pinprev : (raiseAddressIf b s).pinprev = s.pinprev := rfl
@[simp] theorem raiseAddressIf_gieEff : (raiseAddressIf b s).gieEff = s.gieEff := rfl
@[simp] theorem raiseAddressIf_skid : (raiseAddressIf b s).skid = s.skid := rfl
@[simp] theorem raiseAddressIf_cycleCount : (raiseAddressIf b s).cycleCount = s.cycleCount := rfl
@[simp] theorem raiseAddressIf_data : (raiseAddressIf b s).data = s.data := rfl
@[simp] theorem raiseAddressIf_prog : (raiseAddressIf b s).prog = s.prog := rfl
@[simp] theorem raiseAddressIf_dev : (raiseAddressIf b s).dev = s.dev := rfl
@[simp] theorem raiseAddressIf_inputs : (raiseAddressIf b s).inputs = s.inputs := rfl
@[simp] theorem raiseAddressIf_cpuWrites : (raiseAddressIf b s).cpuWrites = s.cpuWrites := rfl
@[simp] theorem raiseAddressIf_draws : (raiseAddressIf b s).draws = s.draws := rfl

end

/-! `raiseOscillator` -/

section
variable (s : State)

@[simp] theorem raiseOscillator_pc : (raiseOscillator s).pc = s.pc := rfl
@[simp] theorem raiseOscillator_w15 : (raiseOscillator s).w15 = s.w15 := rfl
@[simp] theorem raiseOscillator_splim : (raiseOscillator s).splim = s.splim := rfl
@[simp] theorem raiseOscillator_splimEnabled : (raiseOscillator s).splimEnabled = s.splimEnabled := rfl
@[simp] theorem raiseOscillator_sr : (raiseOscillator s).sr = s.sr := rfl
@[simp] theorem raiseOscillator_corcon : (raiseOscillator s).corcon = s.corcon := rfl
@[simp] theorem raiseOscillator_wctx : (raiseOscillator s).wctx = s.wctx := rfl
@[simp] theorem raiseOscillator_intcon2 : (raiseOscillator s).intcon2 = s.intcon2 := rfl
@[simp] theorem raiseOscillator_intcon3 : (raiseOscillator s).intcon3 = s.intcon3 := rfl
@[simp] theorem raiseOscillator_intcon4 : (raiseOscillator s).intcon4 = s.intcon4 := rfl
@[simp] theorem raiseOscillator_ifs : (raiseOscillator s).ifs = s.ifs := rfl
@[simp] theorem raiseOscillator_iec : (raiseOscillator s).iec = s.iec := rfl
@[simp] theorem raiseOscillator_ipc : (raiseOscillator s).ipc = s.ipc := rfl
@[simp] theorem raiseOscillator_inttreg : (raiseOscillator s).inttreg = s.inttreg := rfl
@[simp] theorem raiseOscillator_disicnt : (raiseOscillator s).disicnt = s.disicnt := rfl
@[simp] theorem raiseOscillator_disiActive : (raiseOscillator s).disiActive = s.disiActive := rfl
@[simp] theorem raiseOscillator_trapr : (raiseOscillator s).trapr = s.trapr := rfl
@[simp] theorem raiseOscillator_power : (raiseOscillator s).power = s.power := rfl
@[simp] theorem raiseOscillator_pinprev : (raiseOscillator s).pinprev = s.pinprev := rfl
@[simp] theorem raiseOscillator_gieEff : (raiseOscillator s).gieEff = s.gieEff := rfl
@[simp] theorem raiseOscillator_skid : (raiseOscillator s).skid = s.skid := rfl
@[simp] theorem raiseOscillator_cycleCount : (raiseOscillator s).cycleCount = s.cycleCount := rfl
@[simp] theorem raiseOscillator_data : (raiseOscillator s).data = s.data := rfl
@[simp] theorem raiseOscillator_prog : (raiseOscillator s).prog = s.prog := rfl
@[simp] theorem raiseOscillator_dev : (raiseOscillator s).dev = s.dev := rfl
@[simp] theorem raiseOscillator_inputs : (raiseOscillator s).inputs = s.inputs := rfl
@[simp] theorem raiseOscillator_cpuWrites : (raiseOscillator s).cpuWrites = s.cpuWrites := rfl
@[simp] theorem raiseOscillator_draws : (raiseOscillator s).draws = s.draws := rfl

end

/-! `hardEventsIf` -/

section
variable (o a g : Bool) (s : State)

@[simp] theorem hardEventsIf_pc : (hardEventsIf o a g s).pc = s.pc := rfl
@[simp] theorem hardEventsIf_w15 : (hardEventsIf o a g s).w15 = s.w15 := rfl
@[simp] theorem hardEventsIf_splim : (hardEventsIf o a g s).splim = s.splim := rfl
@[simp] theorem hardEventsIf_splimEnabled : (hardEventsIf o a g s).splimEnabled = s.splimEnabled := rfl
@[simp] theorem hardEventsIf_sr : (hardEventsIf o a g s).sr = s.sr := rfl
@[simp] theorem hardEventsIf_corcon : (hardEventsIf o a g s).corcon = s.corcon := rfl
@[simp] theorem hardEventsIf_wctx : (hardEventsIf o a g s).wctx = s.wctx := rfl
@[simp] theorem hardEventsIf_intcon1 : (hardEventsIf o a g s).intcon1 = s.intcon1 := rfl
@[simp] theorem hardEventsIf_intcon2 : (hardEventsIf o a g s).intcon2 = s.intcon2 := rfl
@[simp] theorem hardEventsIf_intcon3 : (hardEventsIf o a g s).intcon3 = s.intcon3 := rfl
@[simp] theorem hardEventsIf_intcon4 : (hardEventsIf o a g s).intcon4 = s.intcon4 := rfl
@[simp] theorem hardEventsIf_ifs : (hardEventsIf o a g s).ifs = s.ifs := rfl
@[simp] theorem hardEventsIf_iec : (hardEventsIf o a g s).iec = s.iec := rfl
@[simp] theorem hardEventsIf_ipc : (hardEventsIf o a g s).ipc = s.ipc := rfl
@[simp] theorem hardEventsIf_inttreg : (hardEventsIf o a g s).inttreg = s.inttreg := rfl
@[simp] theorem hardEventsIf_disicnt : (hardEventsIf o a g s).disicnt = s.disicnt := rfl
@[simp] theorem hardEventsIf_disiActive : (hardEventsIf o a g s).disiActive = s.disiActive := rfl
@[simp] theorem hardEventsIf_trapr : (hardEventsIf o a g s).trapr = s.trapr := rfl
@[simp] theorem hardEventsIf_clockFail : (hardEventsIf o a g s).clockFail = s.clockFail := rfl
@[simp] theorem hardEventsIf_power : (hardEventsIf o a g s).power = s.power := rfl
@[simp] theorem hardEventsIf_pinprev : (hardEventsIf o a g s).pinprev = s.pinprev := rfl
@[simp] theorem hardEventsIf_gieEff : (hardEventsIf o a g s).gieEff = s.gieEff := rfl
@[simp] theorem hardEventsIf_skid : (hardEventsIf o a g s).skid = s.skid := rfl
@[simp] theorem hardEventsIf_cycleCount : (hardEventsIf o a g s).cycleCount = s.cycleCount := rfl
@[simp] theorem hardEventsIf_data : (hardEventsIf o a g s).data = s.data := rfl
@[simp] theorem hardEventsIf_prog : (hardEventsIf o a g s).prog = s.prog := rfl
@[simp] theorem hardEventsIf_dev : (hardEventsIf o a g s).dev = s.dev := rfl
@[simp] theorem hardEventsIf_inputs : (hardEventsIf o a g s).inputs = s.inputs := rfl
@[simp] theorem hardEventsIf_cpuWrites : (hardEventsIf o a g s).cpuWrites = s.cpuWrites := rfl
@[simp] theorem hardEventsIf_draws : (hardEventsIf o a g s).draws = s.draws := rfl

end

/-! `setFlag` -/

section
variable (k : Nat) (s : State)

@[simp] theorem setFlag_pc : (setFlag k s).pc = s.pc := rfl
@[simp] theorem setFlag_w15 : (setFlag k s).w15 = s.w15 := rfl
@[simp] theorem setFlag_splim : (setFlag k s).splim = s.splim := rfl
@[simp] theorem setFlag_splimEnabled : (setFlag k s).splimEnabled = s.splimEnabled := rfl
@[simp] theorem setFlag_sr : (setFlag k s).sr = s.sr := rfl
@[simp] theorem setFlag_corcon : (setFlag k s).corcon = s.corcon := rfl
@[simp] theorem setFlag_wctx : (setFlag k s).wctx = s.wctx := rfl
@[simp] theorem setFlag_intcon1 : (setFlag k s).intcon1 = s.intcon1 := rfl
@[simp] theorem setFlag_intcon2 : (setFlag k s).intcon2 = s.intcon2 := rfl
@[simp] theorem setFlag_intcon3 : (setFlag k s).intcon3 = s.intcon3 := rfl
@[simp] theorem setFlag_intcon4 : (setFlag k s).intcon4 = s.intcon4 := rfl
@[simp] theorem setFlag_iec : (setFlag k s).iec = s.iec := rfl
@[simp] theorem setFlag_ipc : (setFlag k s).ipc = s.ipc := rfl
@[simp] theorem setFlag_inttreg : (setFlag k s).inttreg = s.inttreg := rfl
@[simp] theorem setFlag_disicnt : (setFlag k s).disicnt = s.disicnt := rfl
@[simp] theorem setFlag_disiActive : (setFlag k s).disiActive = s.disiActive := rfl
@[simp] theorem setFlag_trapr : (setFlag k s).trapr = s.trapr := rfl
@[simp] theorem setFlag_clockFail : (setFlag k s).clockFail = s.clockFail := rfl
@[simp] theorem setFlag_hardHold : (setFlag k s).hardHold = s.hardHold := rfl
@[simp] theorem setFlag_hardEvents : (setFlag k s).hardEvents = s.hardEvents := rfl
@[simp] theorem setFlag_power : (setFlag k s).power = s.power := rfl
@[simp] theorem setFlag_pinprev : (setFlag k s).pinprev = s.pinprev := rfl
@[simp] theorem setFlag_gieEff : (setFlag k s).gieEff = s.gieEff := rfl
@[simp] theorem setFlag_skid : (setFlag k s).skid = s.skid := rfl
@[simp] theorem setFlag_cycleCount : (setFlag k s).cycleCount = s.cycleCount := rfl
@[simp] theorem setFlag_data : (setFlag k s).data = s.data := rfl
@[simp] theorem setFlag_prog : (setFlag k s).prog = s.prog := rfl
@[simp] theorem setFlag_dev : (setFlag k s).dev = s.dev := rfl
@[simp] theorem setFlag_inputs : (setFlag k s).inputs = s.inputs := rfl
@[simp] theorem setFlag_cpuWrites : (setFlag k s).cpuWrites = s.cpuWrites := rfl
@[simp] theorem setFlag_draws : (setFlag k s).draws = s.draws := rfl

end

/-! `cpuStoreByteIf` -/

section
variable (b : Bool) (a : Word) (v : Byte) (s : State)

@[simp] theorem cpuStoreByteIf_pc : (cpuStoreByteIf b a v s).pc = s.pc := rfl
@[simp] theorem cpuStoreByteIf_w15 : (cpuStoreByteIf b a v s).w15 = s.w15 := rfl
@[simp] theorem cpuStoreByteIf_splim : (cpuStoreByteIf b a v s).splim = s.splim := rfl
@[simp] theorem cpuStoreByteIf_splimEnabled : (cpuStoreByteIf b a v s).splimEnabled = s.splimEnabled := rfl
@[simp] theorem cpuStoreByteIf_sr : (cpuStoreByteIf b a v s).sr = s.sr := rfl
@[simp] theorem cpuStoreByteIf_corcon : (cpuStoreByteIf b a v s).corcon = s.corcon := rfl
@[simp] theorem cpuStoreByteIf_wctx : (cpuStoreByteIf b a v s).wctx = s.wctx := rfl
@[simp] theorem cpuStoreByteIf_intcon1 : (cpuStoreByteIf b a v s).intcon1 = s.intcon1 := rfl
@[simp] theorem cpuStoreByteIf_intcon2 : (cpuStoreByteIf b a v s).intcon2 = s.intcon2 := rfl
@[simp] theorem cpuStoreByteIf_intcon3 : (cpuStoreByteIf b a v s).intcon3 = s.intcon3 := rfl
@[simp] theorem cpuStoreByteIf_intcon4 : (cpuStoreByteIf b a v s).intcon4 = s.intcon4 := rfl
@[simp] theorem cpuStoreByteIf_ifs : (cpuStoreByteIf b a v s).ifs = s.ifs := rfl
@[simp] theorem cpuStoreByteIf_iec : (cpuStoreByteIf b a v s).iec = s.iec := rfl
@[simp] theorem cpuStoreByteIf_ipc : (cpuStoreByteIf b a v s).ipc = s.ipc := rfl
@[simp] theorem cpuStoreByteIf_inttreg : (cpuStoreByteIf b a v s).inttreg = s.inttreg := rfl
@[simp] theorem cpuStoreByteIf_disicnt : (cpuStoreByteIf b a v s).disicnt = s.disicnt := rfl
@[simp] theorem cpuStoreByteIf_disiActive : (cpuStoreByteIf b a v s).disiActive = s.disiActive := rfl
@[simp] theorem cpuStoreByteIf_trapr : (cpuStoreByteIf b a v s).trapr = s.trapr := rfl
@[simp] theorem cpuStoreByteIf_clockFail : (cpuStoreByteIf b a v s).clockFail = s.clockFail := rfl
@[simp] theorem cpuStoreByteIf_hardHold : (cpuStoreByteIf b a v s).hardHold = s.hardHold := rfl
@[simp] theorem cpuStoreByteIf_hardEvents : (cpuStoreByteIf b a v s).hardEvents = s.hardEvents := rfl
@[simp] theorem cpuStoreByteIf_power : (cpuStoreByteIf b a v s).power = s.power := rfl
@[simp] theorem cpuStoreByteIf_pinprev : (cpuStoreByteIf b a v s).pinprev = s.pinprev := rfl
@[simp] theorem cpuStoreByteIf_gieEff : (cpuStoreByteIf b a v s).gieEff = s.gieEff := rfl
@[simp] theorem cpuStoreByteIf_skid : (cpuStoreByteIf b a v s).skid = s.skid := rfl
@[simp] theorem cpuStoreByteIf_cycleCount : (cpuStoreByteIf b a v s).cycleCount = s.cycleCount := rfl
@[simp] theorem cpuStoreByteIf_prog : (cpuStoreByteIf b a v s).prog = s.prog := rfl
@[simp] theorem cpuStoreByteIf_dev : (cpuStoreByteIf b a v s).dev = s.dev := rfl
@[simp] theorem cpuStoreByteIf_inputs : (cpuStoreByteIf b a v s).inputs = s.inputs := rfl
@[simp] theorem cpuStoreByteIf_draws : (cpuStoreByteIf b a v s).draws = s.draws := rfl

end

/-! `cpuStoreWordIf` -/

section
variable (b : Bool) (a v : Word) (s : State)

@[simp] theorem cpuStoreWordIf_pc : (cpuStoreWordIf b a v s).pc = s.pc := rfl
@[simp] theorem cpuStoreWordIf_w15 : (cpuStoreWordIf b a v s).w15 = s.w15 := rfl
@[simp] theorem cpuStoreWordIf_splim : (cpuStoreWordIf b a v s).splim = s.splim := rfl
@[simp] theorem cpuStoreWordIf_splimEnabled : (cpuStoreWordIf b a v s).splimEnabled = s.splimEnabled := rfl
@[simp] theorem cpuStoreWordIf_sr : (cpuStoreWordIf b a v s).sr = s.sr := rfl
@[simp] theorem cpuStoreWordIf_corcon : (cpuStoreWordIf b a v s).corcon = s.corcon := rfl
@[simp] theorem cpuStoreWordIf_wctx : (cpuStoreWordIf b a v s).wctx = s.wctx := rfl
@[simp] theorem cpuStoreWordIf_intcon1 : (cpuStoreWordIf b a v s).intcon1 = s.intcon1 := rfl
@[simp] theorem cpuStoreWordIf_intcon2 : (cpuStoreWordIf b a v s).intcon2 = s.intcon2 := rfl
@[simp] theorem cpuStoreWordIf_intcon3 : (cpuStoreWordIf b a v s).intcon3 = s.intcon3 := rfl
@[simp] theorem cpuStoreWordIf_intcon4 : (cpuStoreWordIf b a v s).intcon4 = s.intcon4 := rfl
@[simp] theorem cpuStoreWordIf_ifs : (cpuStoreWordIf b a v s).ifs = s.ifs := rfl
@[simp] theorem cpuStoreWordIf_iec : (cpuStoreWordIf b a v s).iec = s.iec := rfl
@[simp] theorem cpuStoreWordIf_ipc : (cpuStoreWordIf b a v s).ipc = s.ipc := rfl
@[simp] theorem cpuStoreWordIf_inttreg : (cpuStoreWordIf b a v s).inttreg = s.inttreg := rfl
@[simp] theorem cpuStoreWordIf_disicnt : (cpuStoreWordIf b a v s).disicnt = s.disicnt := rfl
@[simp] theorem cpuStoreWordIf_disiActive : (cpuStoreWordIf b a v s).disiActive = s.disiActive := rfl
@[simp] theorem cpuStoreWordIf_trapr : (cpuStoreWordIf b a v s).trapr = s.trapr := rfl
@[simp] theorem cpuStoreWordIf_clockFail : (cpuStoreWordIf b a v s).clockFail = s.clockFail := rfl
@[simp] theorem cpuStoreWordIf_hardHold : (cpuStoreWordIf b a v s).hardHold = s.hardHold := rfl
@[simp] theorem cpuStoreWordIf_hardEvents : (cpuStoreWordIf b a v s).hardEvents = s.hardEvents := rfl
@[simp] theorem cpuStoreWordIf_power : (cpuStoreWordIf b a v s).power = s.power := rfl
@[simp] theorem cpuStoreWordIf_pinprev : (cpuStoreWordIf b a v s).pinprev = s.pinprev := rfl
@[simp] theorem cpuStoreWordIf_gieEff : (cpuStoreWordIf b a v s).gieEff = s.gieEff := rfl
@[simp] theorem cpuStoreWordIf_skid : (cpuStoreWordIf b a v s).skid = s.skid := rfl
@[simp] theorem cpuStoreWordIf_cycleCount : (cpuStoreWordIf b a v s).cycleCount = s.cycleCount := rfl
@[simp] theorem cpuStoreWordIf_prog : (cpuStoreWordIf b a v s).prog = s.prog := rfl
@[simp] theorem cpuStoreWordIf_dev : (cpuStoreWordIf b a v s).dev = s.dev := rfl
@[simp] theorem cpuStoreWordIf_inputs : (cpuStoreWordIf b a v s).inputs = s.inputs := rfl
@[simp] theorem cpuStoreWordIf_draws : (cpuStoreWordIf b a v s).draws = s.draws := rfl

end

/-! `stackCheck` -/

section
variable (a : Word) (b : Bool) (s : State)

@[simp] theorem stackCheck_pc : (stackCheck a b s).pc = s.pc := rfl
@[simp] theorem stackCheck_w15 : (stackCheck a b s).w15 = s.w15 := rfl
@[simp] theorem stackCheck_splim : (stackCheck a b s).splim = s.splim := rfl
@[simp] theorem stackCheck_splimEnabled : (stackCheck a b s).splimEnabled = s.splimEnabled := rfl
@[simp] theorem stackCheck_sr : (stackCheck a b s).sr = s.sr := rfl
@[simp] theorem stackCheck_corcon : (stackCheck a b s).corcon = s.corcon := rfl
@[simp] theorem stackCheck_wctx : (stackCheck a b s).wctx = s.wctx := rfl
@[simp] theorem stackCheck_intcon2 : (stackCheck a b s).intcon2 = s.intcon2 := rfl
@[simp] theorem stackCheck_intcon3 : (stackCheck a b s).intcon3 = s.intcon3 := rfl
@[simp] theorem stackCheck_intcon4 : (stackCheck a b s).intcon4 = s.intcon4 := rfl
@[simp] theorem stackCheck_ifs : (stackCheck a b s).ifs = s.ifs := rfl
@[simp] theorem stackCheck_iec : (stackCheck a b s).iec = s.iec := rfl
@[simp] theorem stackCheck_ipc : (stackCheck a b s).ipc = s.ipc := rfl
@[simp] theorem stackCheck_inttreg : (stackCheck a b s).inttreg = s.inttreg := rfl
@[simp] theorem stackCheck_disicnt : (stackCheck a b s).disicnt = s.disicnt := rfl
@[simp] theorem stackCheck_disiActive : (stackCheck a b s).disiActive = s.disiActive := rfl
@[simp] theorem stackCheck_trapr : (stackCheck a b s).trapr = s.trapr := rfl
@[simp] theorem stackCheck_clockFail : (stackCheck a b s).clockFail = s.clockFail := rfl
@[simp] theorem stackCheck_hardHold : (stackCheck a b s).hardHold = s.hardHold := rfl
@[simp] theorem stackCheck_hardEvents : (stackCheck a b s).hardEvents = s.hardEvents := rfl
@[simp] theorem stackCheck_power : (stackCheck a b s).power = s.power := rfl
@[simp] theorem stackCheck_pinprev : (stackCheck a b s).pinprev = s.pinprev := rfl
@[simp] theorem stackCheck_gieEff : (stackCheck a b s).gieEff = s.gieEff := rfl
@[simp] theorem stackCheck_skid : (stackCheck a b s).skid = s.skid := rfl
@[simp] theorem stackCheck_cycleCount : (stackCheck a b s).cycleCount = s.cycleCount := rfl
@[simp] theorem stackCheck_data : (stackCheck a b s).data = s.data := rfl
@[simp] theorem stackCheck_prog : (stackCheck a b s).prog = s.prog := rfl
@[simp] theorem stackCheck_dev : (stackCheck a b s).dev = s.dev := rfl
@[simp] theorem stackCheck_inputs : (stackCheck a b s).inputs = s.inputs := rfl
@[simp] theorem stackCheck_cpuWrites : (stackCheck a b s).cpuWrites = s.cpuWrites := rfl
@[simp] theorem stackCheck_draws : (stackCheck a b s).draws = s.draws := rfl

end

/-! `setSp` -/

section
variable (v : Word) (s : State)

@[simp] theorem setSp_pc : (setSp v s).pc = s.pc := rfl
@[simp] theorem setSp_splim : (setSp v s).splim = s.splim := rfl
@[simp] theorem setSp_splimEnabled : (setSp v s).splimEnabled = s.splimEnabled := rfl
@[simp] theorem setSp_sr : (setSp v s).sr = s.sr := rfl
@[simp] theorem setSp_corcon : (setSp v s).corcon = s.corcon := rfl
@[simp] theorem setSp_wctx : (setSp v s).wctx = s.wctx := rfl
@[simp] theorem setSp_intcon2 : (setSp v s).intcon2 = s.intcon2 := rfl
@[simp] theorem setSp_intcon3 : (setSp v s).intcon3 = s.intcon3 := rfl
@[simp] theorem setSp_intcon4 : (setSp v s).intcon4 = s.intcon4 := rfl
@[simp] theorem setSp_ifs : (setSp v s).ifs = s.ifs := rfl
@[simp] theorem setSp_iec : (setSp v s).iec = s.iec := rfl
@[simp] theorem setSp_ipc : (setSp v s).ipc = s.ipc := rfl
@[simp] theorem setSp_inttreg : (setSp v s).inttreg = s.inttreg := rfl
@[simp] theorem setSp_disicnt : (setSp v s).disicnt = s.disicnt := rfl
@[simp] theorem setSp_disiActive : (setSp v s).disiActive = s.disiActive := rfl
@[simp] theorem setSp_trapr : (setSp v s).trapr = s.trapr := rfl
@[simp] theorem setSp_clockFail : (setSp v s).clockFail = s.clockFail := rfl
@[simp] theorem setSp_hardHold : (setSp v s).hardHold = s.hardHold := rfl
@[simp] theorem setSp_hardEvents : (setSp v s).hardEvents = s.hardEvents := rfl
@[simp] theorem setSp_power : (setSp v s).power = s.power := rfl
@[simp] theorem setSp_pinprev : (setSp v s).pinprev = s.pinprev := rfl
@[simp] theorem setSp_gieEff : (setSp v s).gieEff = s.gieEff := rfl
@[simp] theorem setSp_skid : (setSp v s).skid = s.skid := rfl
@[simp] theorem setSp_cycleCount : (setSp v s).cycleCount = s.cycleCount := rfl
@[simp] theorem setSp_data : (setSp v s).data = s.data := rfl
@[simp] theorem setSp_prog : (setSp v s).prog = s.prog := rfl
@[simp] theorem setSp_dev : (setSp v s).dev = s.dev := rfl
@[simp] theorem setSp_inputs : (setSp v s).inputs = s.inputs := rfl
@[simp] theorem setSp_cpuWrites : (setSp v s).cpuWrites = s.cpuWrites := rfl
@[simp] theorem setSp_draws : (setSp v s).draws = s.draws := rfl

end

/-! `push16` -/

section
variable (v : Word) (s : State)

@[simp] theorem push16_pc : (push16 v s).pc = s.pc := rfl
@[simp] theorem push16_splim : (push16 v s).splim = s.splim := rfl
@[simp] theorem push16_splimEnabled : (push16 v s).splimEnabled = s.splimEnabled := rfl
@[simp] theorem push16_sr : (push16 v s).sr = s.sr := rfl
@[simp] theorem push16_corcon : (push16 v s).corcon = s.corcon := rfl
@[simp] theorem push16_wctx : (push16 v s).wctx = s.wctx := rfl
@[simp] theorem push16_intcon2 : (push16 v s).intcon2 = s.intcon2 := rfl
@[simp] theorem push16_intcon3 : (push16 v s).intcon3 = s.intcon3 := rfl
@[simp] theorem push16_intcon4 : (push16 v s).intcon4 = s.intcon4 := rfl
@[simp] theorem push16_ifs : (push16 v s).ifs = s.ifs := rfl
@[simp] theorem push16_iec : (push16 v s).iec = s.iec := rfl
@[simp] theorem push16_ipc : (push16 v s).ipc = s.ipc := rfl
@[simp] theorem push16_inttreg : (push16 v s).inttreg = s.inttreg := rfl
@[simp] theorem push16_disicnt : (push16 v s).disicnt = s.disicnt := rfl
@[simp] theorem push16_disiActive : (push16 v s).disiActive = s.disiActive := rfl
@[simp] theorem push16_trapr : (push16 v s).trapr = s.trapr := rfl
@[simp] theorem push16_clockFail : (push16 v s).clockFail = s.clockFail := rfl
@[simp] theorem push16_power : (push16 v s).power = s.power := rfl
@[simp] theorem push16_pinprev : (push16 v s).pinprev = s.pinprev := rfl
@[simp] theorem push16_gieEff : (push16 v s).gieEff = s.gieEff := rfl
@[simp] theorem push16_skid : (push16 v s).skid = s.skid := rfl
@[simp] theorem push16_cycleCount : (push16 v s).cycleCount = s.cycleCount := rfl
@[simp] theorem push16_prog : (push16 v s).prog = s.prog := rfl
@[simp] theorem push16_dev : (push16 v s).dev = s.dev := rfl
@[simp] theorem push16_inputs : (push16 v s).inputs = s.inputs := rfl
@[simp] theorem push16_draws : (push16 v s).draws = s.draws := rfl

end

/-! `popState` -/

section
variable (s : State)

@[simp] theorem popState_pc : (popState s).pc = s.pc := rfl
@[simp] theorem popState_splim : (popState s).splim = s.splim := rfl
@[simp] theorem popState_splimEnabled : (popState s).splimEnabled = s.splimEnabled := rfl
@[simp] theorem popState_sr : (popState s).sr = s.sr := rfl
@[simp] theorem popState_corcon : (popState s).corcon = s.corcon := rfl
@[simp] theorem popState_wctx : (popState s).wctx = s.wctx := rfl
@[simp] theorem popState_intcon2 : (popState s).intcon2 = s.intcon2 := rfl
@[simp] theorem popState_intcon3 : (popState s).intcon3 = s.intcon3 := rfl
@[simp] theorem popState_intcon4 : (popState s).intcon4 = s.intcon4 := rfl
@[simp] theorem popState_ifs : (popState s).ifs = s.ifs := rfl
@[simp] theorem popState_iec : (popState s).iec = s.iec := rfl
@[simp] theorem popState_ipc : (popState s).ipc = s.ipc := rfl
@[simp] theorem popState_inttreg : (popState s).inttreg = s.inttreg := rfl
@[simp] theorem popState_disicnt : (popState s).disicnt = s.disicnt := rfl
@[simp] theorem popState_disiActive : (popState s).disiActive = s.disiActive := rfl
@[simp] theorem popState_trapr : (popState s).trapr = s.trapr := rfl
@[simp] theorem popState_clockFail : (popState s).clockFail = s.clockFail := rfl
@[simp] theorem popState_power : (popState s).power = s.power := rfl
@[simp] theorem popState_pinprev : (popState s).pinprev = s.pinprev := rfl
@[simp] theorem popState_gieEff : (popState s).gieEff = s.gieEff := rfl
@[simp] theorem popState_skid : (popState s).skid = s.skid := rfl
@[simp] theorem popState_cycleCount : (popState s).cycleCount = s.cycleCount := rfl
@[simp] theorem popState_data : (popState s).data = s.data := rfl
@[simp] theorem popState_prog : (popState s).prog = s.prog := rfl
@[simp] theorem popState_dev : (popState s).dev = s.dev := rfl
@[simp] theorem popState_inputs : (popState s).inputs = s.inputs := rfl
@[simp] theorem popState_cpuWrites : (popState s).cpuWrites = s.cpuWrites := rfl

end

/-! `pushFrame` -/

section
variable (s : State)

@[simp] theorem pushFrame_pc : (pushFrame s).pc = s.pc := rfl
@[simp] theorem pushFrame_splim : (pushFrame s).splim = s.splim := rfl
@[simp] theorem pushFrame_splimEnabled : (pushFrame s).splimEnabled = s.splimEnabled := rfl
@[simp] theorem pushFrame_sr : (pushFrame s).sr = s.sr := rfl
@[simp] theorem pushFrame_corcon : (pushFrame s).corcon = s.corcon := rfl
@[simp] theorem pushFrame_wctx : (pushFrame s).wctx = s.wctx := rfl
@[simp] theorem pushFrame_intcon2 : (pushFrame s).intcon2 = s.intcon2 := rfl
@[simp] theorem pushFrame_intcon3 : (pushFrame s).intcon3 = s.intcon3 := rfl
@[simp] theorem pushFrame_intcon4 : (pushFrame s).intcon4 = s.intcon4 := rfl
@[simp] theorem pushFrame_ifs : (pushFrame s).ifs = s.ifs := rfl
@[simp] theorem pushFrame_iec : (pushFrame s).iec = s.iec := rfl
@[simp] theorem pushFrame_ipc : (pushFrame s).ipc = s.ipc := rfl
@[simp] theorem pushFrame_inttreg : (pushFrame s).inttreg = s.inttreg := rfl
@[simp] theorem pushFrame_disicnt : (pushFrame s).disicnt = s.disicnt := rfl
@[simp] theorem pushFrame_disiActive : (pushFrame s).disiActive = s.disiActive := rfl
@[simp] theorem pushFrame_trapr : (pushFrame s).trapr = s.trapr := rfl
@[simp] theorem pushFrame_clockFail : (pushFrame s).clockFail = s.clockFail := rfl
@[simp] theorem pushFrame_power : (pushFrame s).power = s.power := rfl
@[simp] theorem pushFrame_pinprev : (pushFrame s).pinprev = s.pinprev := rfl
@[simp] theorem pushFrame_gieEff : (pushFrame s).gieEff = s.gieEff := rfl
@[simp] theorem pushFrame_skid : (pushFrame s).skid = s.skid := rfl
@[simp] theorem pushFrame_cycleCount : (pushFrame s).cycleCount = s.cycleCount := rfl
@[simp] theorem pushFrame_prog : (pushFrame s).prog = s.prog := rfl
@[simp] theorem pushFrame_dev : (pushFrame s).dev = s.dev := rfl
@[simp] theorem pushFrame_inputs : (pushFrame s).inputs = s.inputs := rfl
@[simp] theorem pushFrame_draws : (pushFrame s).draws = s.draws := rfl

end

/-! `writeLevel` -/

section
variable (x : Source) (l : BitVec 4) (s : State)

@[simp] theorem writeLevel_pc : (writeLevel x l s).pc = s.pc := by cases x <;> rfl
@[simp] theorem writeLevel_w15 : (writeLevel x l s).w15 = s.w15 := by cases x <;> rfl
@[simp] theorem writeLevel_splim : (writeLevel x l s).splim = s.splim := by cases x <;> rfl
@[simp] theorem writeLevel_splimEnabled : (writeLevel x l s).splimEnabled = s.splimEnabled := by cases x <;> rfl
@[simp] theorem writeLevel_wctx : (writeLevel x l s).wctx = s.wctx := by cases x <;> rfl
@[simp] theorem writeLevel_intcon1 : (writeLevel x l s).intcon1 = s.intcon1 := by cases x <;> rfl
@[simp] theorem writeLevel_intcon2 : (writeLevel x l s).intcon2 = s.intcon2 := by cases x <;> rfl
@[simp] theorem writeLevel_intcon3 : (writeLevel x l s).intcon3 = s.intcon3 := by cases x <;> rfl
@[simp] theorem writeLevel_intcon4 : (writeLevel x l s).intcon4 = s.intcon4 := by cases x <;> rfl
@[simp] theorem writeLevel_ifs : (writeLevel x l s).ifs = s.ifs := by cases x <;> rfl
@[simp] theorem writeLevel_iec : (writeLevel x l s).iec = s.iec := by cases x <;> rfl
@[simp] theorem writeLevel_ipc : (writeLevel x l s).ipc = s.ipc := by cases x <;> rfl
@[simp] theorem writeLevel_inttreg : (writeLevel x l s).inttreg = s.inttreg := by cases x <;> rfl
@[simp] theorem writeLevel_disicnt : (writeLevel x l s).disicnt = s.disicnt := by cases x <;> rfl
@[simp] theorem writeLevel_disiActive : (writeLevel x l s).disiActive = s.disiActive := by cases x <;> rfl
@[simp] theorem writeLevel_trapr : (writeLevel x l s).trapr = s.trapr := by cases x <;> rfl
@[simp] theorem writeLevel_clockFail : (writeLevel x l s).clockFail = s.clockFail := by cases x <;> rfl
@[simp] theorem writeLevel_hardHold : (writeLevel x l s).hardHold = s.hardHold := by cases x <;> rfl
@[simp] theorem writeLevel_hardEvents : (writeLevel x l s).hardEvents = s.hardEvents := by cases x <;> rfl
@[simp] theorem writeLevel_power : (writeLevel x l s).power = s.power := by cases x <;> rfl
@[simp] theorem writeLevel_pinprev : (writeLevel x l s).pinprev = s.pinprev := by cases x <;> rfl
@[simp] theorem writeLevel_gieEff : (writeLevel x l s).gieEff = s.gieEff := by cases x <;> rfl
@[simp] theorem writeLevel_skid : (writeLevel x l s).skid = s.skid := by cases x <;> rfl
@[simp] theorem writeLevel_cycleCount : (writeLevel x l s).cycleCount = s.cycleCount := by cases x <;> rfl
@[simp] theorem writeLevel_data : (writeLevel x l s).data = s.data := by cases x <;> rfl
@[simp] theorem writeLevel_prog : (writeLevel x l s).prog = s.prog := by cases x <;> rfl
@[simp] theorem writeLevel_dev : (writeLevel x l s).dev = s.dev := by cases x <;> rfl
@[simp] theorem writeLevel_inputs : (writeLevel x l s).inputs = s.inputs := by cases x <;> rfl
@[simp] theorem writeLevel_cpuWrites : (writeLevel x l s).cpuWrites = s.cpuWrites := by cases x <;> rfl
@[simp] theorem writeLevel_draws : (writeLevel x l s).draws = s.draws := by cases x <;> rfl

end

/-! `latchInttreg` -/

section
variable (x : Source) (l : BitVec 4) (s : State)

@[simp] theorem latchInttreg_pc : (latchInttreg x l s).pc = s.pc := by cases x <;> rfl
@[simp] theorem latchInttreg_w15 : (latchInttreg x l s).w15 = s.w15 := by cases x <;> rfl
@[simp] theorem latchInttreg_splim : (latchInttreg x l s).splim = s.splim := by cases x <;> rfl
@[simp] theorem latchInttreg_splimEnabled : (latchInttreg x l s).splimEnabled = s.splimEnabled := by cases x <;> rfl
@[simp] theorem latchInttreg_sr : (latchInttreg x l s).sr = s.sr := by cases x <;> rfl
@[simp] theorem latchInttreg_corcon : (latchInttreg x l s).corcon = s.corcon := by cases x <;> rfl
@[simp] theorem latchInttreg_wctx : (latchInttreg x l s).wctx = s.wctx := by cases x <;> rfl
@[simp] theorem latchInttreg_intcon1 : (latchInttreg x l s).intcon1 = s.intcon1 := by cases x <;> rfl
@[simp] theorem latchInttreg_intcon2 : (latchInttreg x l s).intcon2 = s.intcon2 := by cases x <;> rfl
@[simp] theorem latchInttreg_intcon3 : (latchInttreg x l s).intcon3 = s.intcon3 := by cases x <;> rfl
@[simp] theorem latchInttreg_intcon4 : (latchInttreg x l s).intcon4 = s.intcon4 := by cases x <;> rfl
@[simp] theorem latchInttreg_ifs : (latchInttreg x l s).ifs = s.ifs := by cases x <;> rfl
@[simp] theorem latchInttreg_iec : (latchInttreg x l s).iec = s.iec := by cases x <;> rfl
@[simp] theorem latchInttreg_ipc : (latchInttreg x l s).ipc = s.ipc := by cases x <;> rfl
@[simp] theorem latchInttreg_disicnt : (latchInttreg x l s).disicnt = s.disicnt := by cases x <;> rfl
@[simp] theorem latchInttreg_disiActive : (latchInttreg x l s).disiActive = s.disiActive := by cases x <;> rfl
@[simp] theorem latchInttreg_trapr : (latchInttreg x l s).trapr = s.trapr := by cases x <;> rfl
@[simp] theorem latchInttreg_clockFail : (latchInttreg x l s).clockFail = s.clockFail := by cases x <;> rfl
@[simp] theorem latchInttreg_hardHold : (latchInttreg x l s).hardHold = s.hardHold := by cases x <;> rfl
@[simp] theorem latchInttreg_hardEvents : (latchInttreg x l s).hardEvents = s.hardEvents := by cases x <;> rfl
@[simp] theorem latchInttreg_power : (latchInttreg x l s).power = s.power := by cases x <;> rfl
@[simp] theorem latchInttreg_pinprev : (latchInttreg x l s).pinprev = s.pinprev := by cases x <;> rfl
@[simp] theorem latchInttreg_gieEff : (latchInttreg x l s).gieEff = s.gieEff := by cases x <;> rfl
@[simp] theorem latchInttreg_skid : (latchInttreg x l s).skid = s.skid := by cases x <;> rfl
@[simp] theorem latchInttreg_cycleCount : (latchInttreg x l s).cycleCount = s.cycleCount := by cases x <;> rfl
@[simp] theorem latchInttreg_data : (latchInttreg x l s).data = s.data := by cases x <;> rfl
@[simp] theorem latchInttreg_prog : (latchInttreg x l s).prog = s.prog := by cases x <;> rfl
@[simp] theorem latchInttreg_dev : (latchInttreg x l s).dev = s.dev := by cases x <;> rfl
@[simp] theorem latchInttreg_inputs : (latchInttreg x l s).inputs = s.inputs := by cases x <;> rfl
@[simp] theorem latchInttreg_cpuWrites : (latchInttreg x l s).cpuWrites = s.cpuWrites := by cases x <;> rfl

end

/-! `useSet` -/

section
variable (c : Option WSet) (s : State)

@[simp] theorem useSet_pc : (useSet c s).pc = s.pc := rfl
@[simp] theorem useSet_w15 : (useSet c s).w15 = s.w15 := rfl
@[simp] theorem useSet_splim : (useSet c s).splim = s.splim := rfl
@[simp] theorem useSet_splimEnabled : (useSet c s).splimEnabled = s.splimEnabled := rfl
@[simp] theorem useSet_sr : (useSet c s).sr = s.sr := rfl
@[simp] theorem useSet_corcon : (useSet c s).corcon = s.corcon := rfl
@[simp] theorem useSet_intcon1 : (useSet c s).intcon1 = s.intcon1 := rfl
@[simp] theorem useSet_intcon2 : (useSet c s).intcon2 = s.intcon2 := rfl
@[simp] theorem useSet_intcon3 : (useSet c s).intcon3 = s.intcon3 := rfl
@[simp] theorem useSet_intcon4 : (useSet c s).intcon4 = s.intcon4 := rfl
@[simp] theorem useSet_ifs : (useSet c s).ifs = s.ifs := rfl
@[simp] theorem useSet_iec : (useSet c s).iec = s.iec := rfl
@[simp] theorem useSet_ipc : (useSet c s).ipc = s.ipc := rfl
@[simp] theorem useSet_inttreg : (useSet c s).inttreg = s.inttreg := rfl
@[simp] theorem useSet_disicnt : (useSet c s).disicnt = s.disicnt := rfl
@[simp] theorem useSet_disiActive : (useSet c s).disiActive = s.disiActive := rfl
@[simp] theorem useSet_trapr : (useSet c s).trapr = s.trapr := rfl
@[simp] theorem useSet_clockFail : (useSet c s).clockFail = s.clockFail := rfl
@[simp] theorem useSet_hardHold : (useSet c s).hardHold = s.hardHold := rfl
@[simp] theorem useSet_hardEvents : (useSet c s).hardEvents = s.hardEvents := rfl
@[simp] theorem useSet_power : (useSet c s).power = s.power := rfl
@[simp] theorem useSet_pinprev : (useSet c s).pinprev = s.pinprev := rfl
@[simp] theorem useSet_gieEff : (useSet c s).gieEff = s.gieEff := rfl
@[simp] theorem useSet_skid : (useSet c s).skid = s.skid := rfl
@[simp] theorem useSet_cycleCount : (useSet c s).cycleCount = s.cycleCount := rfl
@[simp] theorem useSet_data : (useSet c s).data = s.data := rfl
@[simp] theorem useSet_prog : (useSet c s).prog = s.prog := rfl
@[simp] theorem useSet_dev : (useSet c s).dev = s.dev := rfl
@[simp] theorem useSet_inputs : (useSet c s).inputs = s.inputs := rfl
@[simp] theorem useSet_cpuWrites : (useSet c s).cpuWrites = s.cpuWrites := rfl

end

/-! `loadVector` -/

section
variable (a : ProgAddr) (s : State)

@[simp] theorem loadVector_w15 : (loadVector a s).w15 = s.w15 := rfl
@[simp] theorem loadVector_splim : (loadVector a s).splim = s.splim := rfl
@[simp] theorem loadVector_splimEnabled : (loadVector a s).splimEnabled = s.splimEnabled := rfl
@[simp] theorem loadVector_sr : (loadVector a s).sr = s.sr := rfl
@[simp] theorem loadVector_corcon : (loadVector a s).corcon = s.corcon := rfl
@[simp] theorem loadVector_wctx : (loadVector a s).wctx = s.wctx := rfl
@[simp] theorem loadVector_intcon1 : (loadVector a s).intcon1 = s.intcon1 := rfl
@[simp] theorem loadVector_intcon2 : (loadVector a s).intcon2 = s.intcon2 := rfl
@[simp] theorem loadVector_intcon3 : (loadVector a s).intcon3 = s.intcon3 := rfl
@[simp] theorem loadVector_intcon4 : (loadVector a s).intcon4 = s.intcon4 := rfl
@[simp] theorem loadVector_ifs : (loadVector a s).ifs = s.ifs := rfl
@[simp] theorem loadVector_iec : (loadVector a s).iec = s.iec := rfl
@[simp] theorem loadVector_ipc : (loadVector a s).ipc = s.ipc := rfl
@[simp] theorem loadVector_inttreg : (loadVector a s).inttreg = s.inttreg := rfl
@[simp] theorem loadVector_disicnt : (loadVector a s).disicnt = s.disicnt := rfl
@[simp] theorem loadVector_disiActive : (loadVector a s).disiActive = s.disiActive := rfl
@[simp] theorem loadVector_trapr : (loadVector a s).trapr = s.trapr := rfl
@[simp] theorem loadVector_clockFail : (loadVector a s).clockFail = s.clockFail := rfl
@[simp] theorem loadVector_hardHold : (loadVector a s).hardHold = s.hardHold := rfl
@[simp] theorem loadVector_hardEvents : (loadVector a s).hardEvents = s.hardEvents := rfl
@[simp] theorem loadVector_power : (loadVector a s).power = s.power := rfl
@[simp] theorem loadVector_pinprev : (loadVector a s).pinprev = s.pinprev := rfl
@[simp] theorem loadVector_gieEff : (loadVector a s).gieEff = s.gieEff := rfl
@[simp] theorem loadVector_skid : (loadVector a s).skid = s.skid := rfl
@[simp] theorem loadVector_cycleCount : (loadVector a s).cycleCount = s.cycleCount := rfl
@[simp] theorem loadVector_data : (loadVector a s).data = s.data := rfl
@[simp] theorem loadVector_prog : (loadVector a s).prog = s.prog := rfl
@[simp] theorem loadVector_dev : (loadVector a s).dev = s.dev := rfl
@[simp] theorem loadVector_inputs : (loadVector a s).inputs = s.inputs := rfl
@[simp] theorem loadVector_cpuWrites : (loadVector a s).cpuWrites = s.cpuWrites := rfl

end

/-! `restoreStatus` -/

section
variable (hi lo : Word) (s : State)

@[simp] theorem restoreStatus_pc : (restoreStatus hi lo s).pc = s.pc := rfl
@[simp] theorem restoreStatus_w15 : (restoreStatus hi lo s).w15 = s.w15 := rfl
@[simp] theorem restoreStatus_splim : (restoreStatus hi lo s).splim = s.splim := rfl
@[simp] theorem restoreStatus_splimEnabled : (restoreStatus hi lo s).splimEnabled = s.splimEnabled := rfl
@[simp] theorem restoreStatus_wctx : (restoreStatus hi lo s).wctx = s.wctx := rfl
@[simp] theorem restoreStatus_intcon1 : (restoreStatus hi lo s).intcon1 = s.intcon1 := rfl
@[simp] theorem restoreStatus_intcon2 : (restoreStatus hi lo s).intcon2 = s.intcon2 := rfl
@[simp] theorem restoreStatus_intcon3 : (restoreStatus hi lo s).intcon3 = s.intcon3 := rfl
@[simp] theorem restoreStatus_intcon4 : (restoreStatus hi lo s).intcon4 = s.intcon4 := rfl
@[simp] theorem restoreStatus_ifs : (restoreStatus hi lo s).ifs = s.ifs := rfl
@[simp] theorem restoreStatus_iec : (restoreStatus hi lo s).iec = s.iec := rfl
@[simp] theorem restoreStatus_ipc : (restoreStatus hi lo s).ipc = s.ipc := rfl
@[simp] theorem restoreStatus_inttreg : (restoreStatus hi lo s).inttreg = s.inttreg := rfl
@[simp] theorem restoreStatus_disicnt : (restoreStatus hi lo s).disicnt = s.disicnt := rfl
@[simp] theorem restoreStatus_disiActive : (restoreStatus hi lo s).disiActive = s.disiActive := rfl
@[simp] theorem restoreStatus_trapr : (restoreStatus hi lo s).trapr = s.trapr := rfl
@[simp] theorem restoreStatus_clockFail : (restoreStatus hi lo s).clockFail = s.clockFail := rfl
@[simp] theorem restoreStatus_hardHold : (restoreStatus hi lo s).hardHold = s.hardHold := rfl
@[simp] theorem restoreStatus_hardEvents : (restoreStatus hi lo s).hardEvents = s.hardEvents := rfl
@[simp] theorem restoreStatus_power : (restoreStatus hi lo s).power = s.power := rfl
@[simp] theorem restoreStatus_pinprev : (restoreStatus hi lo s).pinprev = s.pinprev := rfl
@[simp] theorem restoreStatus_gieEff : (restoreStatus hi lo s).gieEff = s.gieEff := rfl
@[simp] theorem restoreStatus_skid : (restoreStatus hi lo s).skid = s.skid := rfl
@[simp] theorem restoreStatus_cycleCount : (restoreStatus hi lo s).cycleCount = s.cycleCount := rfl
@[simp] theorem restoreStatus_data : (restoreStatus hi lo s).data = s.data := rfl
@[simp] theorem restoreStatus_prog : (restoreStatus hi lo s).prog = s.prog := rfl
@[simp] theorem restoreStatus_dev : (restoreStatus hi lo s).dev = s.dev := rfl
@[simp] theorem restoreStatus_inputs : (restoreStatus hi lo s).inputs = s.inputs := rfl
@[simp] theorem restoreStatus_cpuWrites : (restoreStatus hi lo s).cpuWrites = s.cpuWrites := rfl
@[simp] theorem restoreStatus_draws : (restoreStatus hi lo s).draws = s.draws := rfl

end

/-! `tick` -/

section
variable (n : Nat) (s : State)

@[simp] theorem tick_pc : (tick n s).pc = s.pc := rfl
@[simp] theorem tick_w15 : (tick n s).w15 = s.w15 := rfl
@[simp] theorem tick_splim : (tick n s).splim = s.splim := rfl
@[simp] theorem tick_splimEnabled : (tick n s).splimEnabled = s.splimEnabled := rfl
@[simp] theorem tick_sr : (tick n s).sr = s.sr := rfl
@[simp] theorem tick_corcon : (tick n s).corcon = s.corcon := rfl
@[simp] theorem tick_wctx : (tick n s).wctx = s.wctx := rfl
@[simp] theorem tick_intcon1 : (tick n s).intcon1 = s.intcon1 := rfl
@[simp] theorem tick_intcon2 : (tick n s).intcon2 = s.intcon2 := rfl
@[simp] theorem tick_intcon3 : (tick n s).intcon3 = s.intcon3 := rfl
@[simp] theorem tick_intcon4 : (tick n s).intcon4 = s.intcon4 := rfl
@[simp] theorem tick_ifs : (tick n s).ifs = s.ifs := rfl
@[simp] theorem tick_iec : (tick n s).iec = s.iec := rfl
@[simp] theorem tick_ipc : (tick n s).ipc = s.ipc := rfl
@[simp] theorem tick_inttreg : (tick n s).inttreg = s.inttreg := rfl
@[simp] theorem tick_trapr : (tick n s).trapr = s.trapr := rfl
@[simp] theorem tick_clockFail : (tick n s).clockFail = s.clockFail := rfl
@[simp] theorem tick_hardHold : (tick n s).hardHold = s.hardHold := rfl
@[simp] theorem tick_hardEvents : (tick n s).hardEvents = s.hardEvents := rfl
@[simp] theorem tick_power : (tick n s).power = s.power := rfl
@[simp] theorem tick_pinprev : (tick n s).pinprev = s.pinprev := rfl
@[simp] theorem tick_gieEff : (tick n s).gieEff = s.gieEff := rfl
@[simp] theorem tick_skid : (tick n s).skid = s.skid := rfl
@[simp] theorem tick_data : (tick n s).data = s.data := rfl
@[simp] theorem tick_prog : (tick n s).prog = s.prog := rfl
@[simp] theorem tick_dev : (tick n s).dev = s.dev := rfl
@[simp] theorem tick_inputs : (tick n s).inputs = s.inputs := rfl
@[simp] theorem tick_cpuWrites : (tick n s).cpuWrites = s.cpuWrites := rfl
@[simp] theorem tick_draws : (tick n s).draws = s.draws := rfl

end

/-! `tickEntry` -/

section
variable (n : Nat) (s : State)

@[simp] theorem tickEntry_pc : (tickEntry n s).pc = s.pc := rfl
@[simp] theorem tickEntry_w15 : (tickEntry n s).w15 = s.w15 := rfl
@[simp] theorem tickEntry_splim : (tickEntry n s).splim = s.splim := rfl
@[simp] theorem tickEntry_splimEnabled : (tickEntry n s).splimEnabled = s.splimEnabled := rfl
@[simp] theorem tickEntry_sr : (tickEntry n s).sr = s.sr := rfl
@[simp] theorem tickEntry_corcon : (tickEntry n s).corcon = s.corcon := rfl
@[simp] theorem tickEntry_wctx : (tickEntry n s).wctx = s.wctx := rfl
@[simp] theorem tickEntry_intcon1 : (tickEntry n s).intcon1 = s.intcon1 := rfl
@[simp] theorem tickEntry_intcon2 : (tickEntry n s).intcon2 = s.intcon2 := rfl
@[simp] theorem tickEntry_intcon3 : (tickEntry n s).intcon3 = s.intcon3 := rfl
@[simp] theorem tickEntry_intcon4 : (tickEntry n s).intcon4 = s.intcon4 := rfl
@[simp] theorem tickEntry_ifs : (tickEntry n s).ifs = s.ifs := rfl
@[simp] theorem tickEntry_iec : (tickEntry n s).iec = s.iec := rfl
@[simp] theorem tickEntry_ipc : (tickEntry n s).ipc = s.ipc := rfl
@[simp] theorem tickEntry_inttreg : (tickEntry n s).inttreg = s.inttreg := rfl
@[simp] theorem tickEntry_trapr : (tickEntry n s).trapr = s.trapr := rfl
@[simp] theorem tickEntry_clockFail : (tickEntry n s).clockFail = s.clockFail := rfl
@[simp] theorem tickEntry_hardHold : (tickEntry n s).hardHold = s.hardHold := rfl
@[simp] theorem tickEntry_hardEvents : (tickEntry n s).hardEvents = s.hardEvents := rfl
@[simp] theorem tickEntry_power : (tickEntry n s).power = s.power := rfl
@[simp] theorem tickEntry_pinprev : (tickEntry n s).pinprev = s.pinprev := rfl
@[simp] theorem tickEntry_gieEff : (tickEntry n s).gieEff = s.gieEff := rfl
@[simp] theorem tickEntry_skid : (tickEntry n s).skid = s.skid := rfl
@[simp] theorem tickEntry_data : (tickEntry n s).data = s.data := rfl
@[simp] theorem tickEntry_prog : (tickEntry n s).prog = s.prog := rfl
@[simp] theorem tickEntry_dev : (tickEntry n s).dev = s.dev := rfl
@[simp] theorem tickEntry_inputs : (tickEntry n s).inputs = s.inputs := rfl
@[simp] theorem tickEntry_cpuWrites : (tickEntry n s).cpuWrites = s.cpuWrites := rfl

end

/-! `leaveCheck` -/

section
variable (b : Bool) (s : State)

@[simp] theorem leaveCheck_pc : (leaveCheck b s).pc = s.pc := rfl
@[simp] theorem leaveCheck_w15 : (leaveCheck b s).w15 = s.w15 := rfl
@[simp] theorem leaveCheck_splim : (leaveCheck b s).splim = s.splim := rfl
@[simp] theorem leaveCheck_splimEnabled : (leaveCheck b s).splimEnabled = s.splimEnabled := rfl
@[simp] theorem leaveCheck_sr : (leaveCheck b s).sr = s.sr := rfl
@[simp] theorem leaveCheck_corcon : (leaveCheck b s).corcon = s.corcon := rfl
@[simp] theorem leaveCheck_wctx : (leaveCheck b s).wctx = s.wctx := rfl
@[simp] theorem leaveCheck_intcon2 : (leaveCheck b s).intcon2 = s.intcon2 := rfl
@[simp] theorem leaveCheck_intcon3 : (leaveCheck b s).intcon3 = s.intcon3 := rfl
@[simp] theorem leaveCheck_intcon4 : (leaveCheck b s).intcon4 = s.intcon4 := rfl
@[simp] theorem leaveCheck_ifs : (leaveCheck b s).ifs = s.ifs := rfl
@[simp] theorem leaveCheck_iec : (leaveCheck b s).iec = s.iec := rfl
@[simp] theorem leaveCheck_ipc : (leaveCheck b s).ipc = s.ipc := rfl
@[simp] theorem leaveCheck_inttreg : (leaveCheck b s).inttreg = s.inttreg := rfl
@[simp] theorem leaveCheck_disicnt : (leaveCheck b s).disicnt = s.disicnt := rfl
@[simp] theorem leaveCheck_disiActive : (leaveCheck b s).disiActive = s.disiActive := rfl
@[simp] theorem leaveCheck_trapr : (leaveCheck b s).trapr = s.trapr := rfl
@[simp] theorem leaveCheck_clockFail : (leaveCheck b s).clockFail = s.clockFail := rfl
@[simp] theorem leaveCheck_hardHold : (leaveCheck b s).hardHold = s.hardHold := rfl
@[simp] theorem leaveCheck_hardEvents : (leaveCheck b s).hardEvents = s.hardEvents := rfl
@[simp] theorem leaveCheck_power : (leaveCheck b s).power = s.power := rfl
@[simp] theorem leaveCheck_pinprev : (leaveCheck b s).pinprev = s.pinprev := rfl
@[simp] theorem leaveCheck_gieEff : (leaveCheck b s).gieEff = s.gieEff := rfl
@[simp] theorem leaveCheck_skid : (leaveCheck b s).skid = s.skid := rfl
@[simp] theorem leaveCheck_cycleCount : (leaveCheck b s).cycleCount = s.cycleCount := rfl
@[simp] theorem leaveCheck_data : (leaveCheck b s).data = s.data := rfl
@[simp] theorem leaveCheck_prog : (leaveCheck b s).prog = s.prog := rfl
@[simp] theorem leaveCheck_dev : (leaveCheck b s).dev = s.dev := rfl
@[simp] theorem leaveCheck_inputs : (leaveCheck b s).inputs = s.inputs := rfl
@[simp] theorem leaveCheck_cpuWrites : (leaveCheck b s).cpuWrites = s.cpuWrites := rfl
@[simp] theorem leaveCheck_draws : (leaveCheck b s).draws = s.draws := rfl

end

/-! `transfer` -/

section
variable (a : Option ProgAddr) (s : State)

@[simp] theorem transfer_w15 : (transfer a s).w15 = s.w15 := by cases a <;> rfl
@[simp] theorem transfer_splim : (transfer a s).splim = s.splim := by cases a <;> rfl
@[simp] theorem transfer_splimEnabled : (transfer a s).splimEnabled = s.splimEnabled := by cases a <;> rfl
@[simp] theorem transfer_sr : (transfer a s).sr = s.sr := by cases a <;> rfl
@[simp] theorem transfer_corcon : (transfer a s).corcon = s.corcon := by cases a <;> rfl
@[simp] theorem transfer_wctx : (transfer a s).wctx = s.wctx := by cases a <;> rfl
@[simp] theorem transfer_intcon1 : (transfer a s).intcon1 = s.intcon1 := by cases a <;> rfl
@[simp] theorem transfer_intcon2 : (transfer a s).intcon2 = s.intcon2 := by cases a <;> rfl
@[simp] theorem transfer_intcon3 : (transfer a s).intcon3 = s.intcon3 := by cases a <;> rfl
@[simp] theorem transfer_intcon4 : (transfer a s).intcon4 = s.intcon4 := by cases a <;> rfl
@[simp] theorem transfer_ifs : (transfer a s).ifs = s.ifs := by cases a <;> rfl
@[simp] theorem transfer_iec : (transfer a s).iec = s.iec := by cases a <;> rfl
@[simp] theorem transfer_ipc : (transfer a s).ipc = s.ipc := by cases a <;> rfl
@[simp] theorem transfer_inttreg : (transfer a s).inttreg = s.inttreg := by cases a <;> rfl
@[simp] theorem transfer_disicnt : (transfer a s).disicnt = s.disicnt := by cases a <;> rfl
@[simp] theorem transfer_disiActive : (transfer a s).disiActive = s.disiActive := by cases a <;> rfl
@[simp] theorem transfer_trapr : (transfer a s).trapr = s.trapr := by cases a <;> rfl
@[simp] theorem transfer_clockFail : (transfer a s).clockFail = s.clockFail := by cases a <;> rfl
@[simp] theorem transfer_hardHold : (transfer a s).hardHold = s.hardHold := by cases a <;> rfl
@[simp] theorem transfer_hardEvents : (transfer a s).hardEvents = s.hardEvents := by cases a <;> rfl
@[simp] theorem transfer_power : (transfer a s).power = s.power := by cases a <;> rfl
@[simp] theorem transfer_pinprev : (transfer a s).pinprev = s.pinprev := by cases a <;> rfl
@[simp] theorem transfer_gieEff : (transfer a s).gieEff = s.gieEff := by cases a <;> rfl
@[simp] theorem transfer_skid : (transfer a s).skid = s.skid := by cases a <;> rfl
@[simp] theorem transfer_cycleCount : (transfer a s).cycleCount = s.cycleCount := by cases a <;> rfl
@[simp] theorem transfer_data : (transfer a s).data = s.data := by cases a <;> rfl
@[simp] theorem transfer_prog : (transfer a s).prog = s.prog := by cases a <;> rfl
@[simp] theorem transfer_dev : (transfer a s).dev = s.dev := by cases a <;> rfl
@[simp] theorem transfer_inputs : (transfer a s).inputs = s.inputs := by cases a <;> rfl
@[simp] theorem transfer_cpuWrites : (transfer a s).cpuWrites = s.cpuWrites := by cases a <;> rfl
@[simp] theorem transfer_draws : (transfer a s).draws = s.draws := by cases a <;> rfl

end

/-! `wake` -/

section
variable (s : State)

@[simp] theorem wake_pc : (wake s).pc = s.pc := rfl
@[simp] theorem wake_w15 : (wake s).w15 = s.w15 := rfl
@[simp] theorem wake_splim : (wake s).splim = s.splim := rfl
@[simp] theorem wake_splimEnabled : (wake s).splimEnabled = s.splimEnabled := rfl
@[simp] theorem wake_sr : (wake s).sr = s.sr := rfl
@[simp] theorem wake_corcon : (wake s).corcon = s.corcon := rfl
@[simp] theorem wake_wctx : (wake s).wctx = s.wctx := rfl
@[simp] theorem wake_intcon1 : (wake s).intcon1 = s.intcon1 := rfl
@[simp] theorem wake_intcon2 : (wake s).intcon2 = s.intcon2 := rfl
@[simp] theorem wake_intcon3 : (wake s).intcon3 = s.intcon3 := rfl
@[simp] theorem wake_intcon4 : (wake s).intcon4 = s.intcon4 := rfl
@[simp] theorem wake_ifs : (wake s).ifs = s.ifs := rfl
@[simp] theorem wake_iec : (wake s).iec = s.iec := rfl
@[simp] theorem wake_ipc : (wake s).ipc = s.ipc := rfl
@[simp] theorem wake_inttreg : (wake s).inttreg = s.inttreg := rfl
@[simp] theorem wake_trapr : (wake s).trapr = s.trapr := rfl
@[simp] theorem wake_clockFail : (wake s).clockFail = s.clockFail := rfl
@[simp] theorem wake_hardHold : (wake s).hardHold = s.hardHold := rfl
@[simp] theorem wake_hardEvents : (wake s).hardEvents = s.hardEvents := rfl
@[simp] theorem wake_pinprev : (wake s).pinprev = s.pinprev := rfl
@[simp] theorem wake_gieEff : (wake s).gieEff = s.gieEff := rfl
@[simp] theorem wake_skid : (wake s).skid = s.skid := rfl
@[simp] theorem wake_cycleCount : (wake s).cycleCount = s.cycleCount := rfl
@[simp] theorem wake_data : (wake s).data = s.data := rfl
@[simp] theorem wake_prog : (wake s).prog = s.prog := rfl
@[simp] theorem wake_dev : (wake s).dev = s.dev := rfl
@[simp] theorem wake_inputs : (wake s).inputs = s.inputs := rfl
@[simp] theorem wake_cpuWrites : (wake s).cpuWrites = s.cpuWrites := rfl

end

end Sys2Proof.Machine
end

