-- ==== Sys2Proof/Laws/Arbitration.lean ====
section
/-!
SUPPORT. The arbitration, said once: which vectors are looked at, which interrupt of a list is chosen (R172,
R173), and which trap (R216).
-/

namespace Sys2Proof.Machine

/-- A flagged and enabled vector is among the vectors looked at. -/
theorem mem_pendingVectors {s : State} {k : Nat} (hk : k < maxIrq) (hf : s.flag k = true)
    (he : s.enable k = true) : k ∈ pendingVectors s := by
  unfold pendingVectors
  rw [List.mem_flatMap]
  refine ⟨k / 16, ?_, ?_⟩
  · rw [List.mem_range]
    unfold maxIrq at hk
    omega
  · rw [if_neg]
    · rw [List.mem_map]
      exact ⟨k % 16, List.mem_range.mpr (by omega), by omega⟩
    · intro h
      have := congrArg (fun w : Word => w.getLsbD (k % 16)) h
      simp only [State.flag, State.enable, flagAt] at hf he
      simp [BitVec.getLsbD_and, hf, he] at this

/-- A request is of an implemented vector, so it is among the vectors looked at (R170). -/
theorem req_mem_pendingVectors {s : State} {k : Nat} (h : s.req k = true) : k ∈ pendingVectors s := by
  simp only [State.req, Bool.and_eq_true, Device.impl, decide_eq_true_eq] at h
  exact mem_pendingVectors h.1.1.1.2 h.1.2 h.2

theorem eligibleIrq_req {s : State} {k : Nat} (h : eligibleIrq s k = true) : s.req k = true := by
  simp only [eligibleIrq, Bool.and_eq_true] at h
  exact h.1.1.1

/-- What `goesBefore` decides (R172). -/
theorem goesBefore_iff (s : State) (j k : Nat) :
    goesBefore s j k = true ↔ s.level k < s.level j ∨ (s.level j = s.level k ∧ j < k) := by
  simp [goesBefore]

/-- Nothing is chosen from a list exactly where nothing of it is eligible. -/
theorem bestIrq_none (s : State) (l : List Nat) : bestIrq s l = none ↔ ∀ j ∈ l, eligibleIrq s j = false := by
  induction l with
  | nil => simp [bestIrq]
  | cons k t ih =>
    simp only [bestIrq, List.mem_cons, forall_eq_or_imp, ← ih]
    cases h : bestIrq s t with
    | none => cases he : eligibleIrq s k <;> simp
    | some b =>
      simp only [reduceCtorEq, and_false, iff_false]
      split <;> simp

/-- The chosen one is of the list, is eligible, and no eligible one of the list goes before it. -/
theorem bestIrq_some {s : State} {l : List Nat} {b : Nat} (h : bestIrq s l = some b) :
    b ∈ l ∧ eligibleIrq s b = true ∧ ∀ j ∈ l, eligibleIrq s j = true → goesBefore s j b = false := by
  induction l generalizing b with
  | nil => simp [bestIrq] at h
  | cons k t ih =>
    simp only [bestIrq] at h
    cases ht : bestIrq s t with
    | none =>
      rw [ht] at h
      simp only at h
      split at h
      · rename_i he
        cases h
        refine ⟨List.mem_cons_self, he, ?_⟩
        intro j hj hje
        rcases List.mem_cons.mp hj with rfl | hj
        · simp [goesBefore]
        · have := (bestIrq_none s t).mp ht j hj
          simp [this] at hje
      · cases h
    | some c =>
      rw [ht] at h
      obtain ⟨hc, hce, hcb⟩ := ih ht
      simp only at h
      split at h
      · rename_i he
        cases h
        rw [Bool.and_eq_true] at he
        refine ⟨List.mem_cons_self, he.1, ?_⟩
        intro j hj hje
        rcases List.mem_cons.mp hj with rfl | hj
        · simp [goesBefore]
        · have h1 := hcb j hj hje
          have h2 := (goesBefore_iff s k c).mp he.2
          rw [Bool.eq_false_iff] at h1 ⊢
          rw [ne_eq, goesBefore_iff] at h1 ⊢
          intro h3
          apply h1
          rcases h2 with h2 | h2 <;> rcases h3 with h3 | h3 <;> simp only [BitVec.lt_def, ← BitVec.toNat_inj] at * <;> omega
      · rename_i hn
        cases h
        refine ⟨List.mem_cons_of_mem _ hc, hce, ?_⟩
        intro j hj hje
        rcases List.mem_cons.mp hj with rfl | hj
        · simp only [Bool.and_eq_true, not_and, Bool.not_eq_true] at hn
          exact hn hje
        · exact hcb j hj hje

/-- Every trap is in the order of levels. -/
theorem mem_trapsByLevel (t : Trap) : t ∈ trapsByLevel := by cases t <;> decide

/-- No trap is presented exactly where none is eligible. -/
theorem bestTrap_none (s : State) : bestTrap s = none ↔ ∀ t, eligibleTrap s t = false := by
  unfold bestTrap
  rw [List.find?_eq_none]
  constructor
  · intro h t
    simpa using h t (mem_trapsByLevel t)
  · intro h t _
    simp [h t]

/-- The presented trap is eligible. -/
theorem bestTrap_eligible {s : State} {t : Trap} (h : bestTrap s = some t) : eligibleTrap s t = true :=
  List.find?_some h

/-- Who wins: the trap presented, or the interrupt chosen where no trap is eligible (R173). -/
theorem winner_cases (s : State) :
    (∃ t, bestTrap s = some t ∧ winner s = some (.trap t)) ∨
      (bestTrap s = none ∧ ∃ k, bestIrq s (pendingVectors s) = some k ∧ winner s = some (.irq k)) ∨
      (bestTrap s = none ∧ bestIrq s (pendingVectors s) = none ∧ winner s = none) := by
  unfold winner
  cases h : bestTrap s with
  | some t => exact .inl ⟨t, rfl, rfl⟩
  | none =>
    cases hk : bestIrq s (pendingVectors s) with
    | some k => exact .inr (.inl ⟨rfl, k, rfl, rfl⟩)
    | none => exact .inr (.inr ⟨rfl, rfl, rfl⟩)

end Sys2Proof.Machine
end

