-- ==== Sys2Proof/Laws/Memory.lean ====
section
/-!
SUPPORT. The laws of memory: a read after a write, and the canonical form that every write keeps.
-/

namespace Sys2Proof.Machine

variable {w : Nat} {d : BitVec w}

theorem memRead_memInsert_same (m : List (Nat × BitVec w)) (a : Nat) (v : BitVec w) :
    memRead d (memInsert a v m) a = v := by
  induction m with
  | nil => simp [memInsert, memRead]
  | cons p t ih =>
    obtain ⟨b, x⟩ := p
    simp only [memInsert]
    split
    · simp [memRead]
    · split
      · simp [memRead]
      · rename_i h
        simp [memRead, ih, Ne.symm h]

theorem memRead_memInsert_other (m : List (Nat × BitVec w)) {a c : Nat} (v : BitVec w) (h : c ≠ a) :
    memRead d (memInsert a v m) c = memRead d m c := by
  induction m with
  | nil => simp [memInsert, memRead, Ne.symm h]
  | cons p t ih =>
    obtain ⟨b, x⟩ := p
    simp only [memInsert]
    split
    · simp [memRead, Ne.symm h]
    · split
      · rename_i hb
        subst hb
        simp [memRead, Ne.symm h]
      · simp [memRead, ih]

theorem memRead_memErase_same (m : List (Nat × BitVec w)) (a : Nat) : memRead d (memErase a m) a = d := by
  induction m with
  | nil => rfl
  | cons p t ih =>
    obtain ⟨b, x⟩ := p
    simp only [memErase]
    split
    · exact ih
    · rename_i h
      simp [memRead, h, ih]

theorem memRead_memErase_other (m : List (Nat × BitVec w)) {a c : Nat} (h : c ≠ a) :
    memRead d (memErase a m) c = memRead d m c := by
  induction m with
  | nil => rfl
  | cons p t ih =>
    obtain ⟨b, x⟩ := p
    simp only [memErase]
    split
    · rename_i hb
      subst hb
      simp [memRead, ih, Ne.symm h]
    · simp [memRead, ih]

/-- A read after a write to the same address gives the value written. -/
@[simp] theorem memRead_memWrite_same (m : List (Nat × BitVec w)) (a : Nat) (v : BitVec w) :
    memRead d (memWrite d m a v) a = v := by
  unfold memWrite
  split
  · rename_i h
    rw [memRead_memErase_same, h]
  · exact memRead_memInsert_same m a v

/-- A write leaves every other address alone. -/
theorem memRead_memWrite_other (m : List (Nat × BitVec w)) {a c : Nat} (v : BitVec w) (h : c ≠ a) :
    memRead d (memWrite d m a v) c = memRead d m c := by
  unfold memWrite
  split
  · exact memRead_memErase_other m h
  · exact memRead_memInsert_other m v h

theorem memWfFrom_mono (m : List (Nat × BitVec w)) {lo hi : Nat} (h : lo ≤ hi)
    (hm : memWfFrom d hi m = true) : memWfFrom d lo m = true := by
  cases m with
  | nil => rfl
  | cons p t =>
    simp only [memWfFrom, Bool.and_eq_true, decide_eq_true_eq] at hm ⊢
    exact ⟨⟨by omega, hm.1.2⟩, hm.2⟩

theorem memWfFrom_memInsert (m : List (Nat × BitVec w)) {lo a : Nat} {v : BitVec w} (hv : v ≠ d)
    (ha : lo ≤ a) (hm : memWfFrom d lo m = true) : memWfFrom d lo (memInsert a v m) = true := by
  induction m generalizing lo with
  | nil => simp [memInsert, memWfFrom, ha, hv]
  | cons p t ih =>
    obtain ⟨b, x⟩ := p
    simp only [memWfFrom, Bool.and_eq_true, decide_eq_true_eq] at hm
    simp only [memInsert]
    split
    · rename_i hb
      simp [memWfFrom, ha, hv, hm.1.2, hm.2, hb]
    · split
      · rename_i hb
        subst hb
        simp [memWfFrom, ha, hv, hm.2]
      · simp only [memWfFrom, Bool.and_eq_true, decide_eq_true_eq]
        exact ⟨hm.1, ih (by omega) hm.2⟩

theorem memWfFrom_memErase (m : List (Nat × BitVec w)) {lo a : Nat} (hm : memWfFrom d lo m = true) :
    memWfFrom d lo (memErase a m) = true := by
  induction m generalizing lo with
  | nil => rfl
  | cons p t ih =>
    obtain ⟨b, x⟩ := p
    simp only [memWfFrom, Bool.and_eq_true, decide_eq_true_eq] at hm
    simp only [memErase]
    split
    · exact memWfFrom_mono _ (by omega) (ih hm.2)
    · simp only [memWfFrom, Bool.and_eq_true, decide_eq_true_eq]
      exact ⟨hm.1, ih hm.2⟩

/-- Every write keeps the canonical form. -/
theorem memWf_memWrite (m : List (Nat × BitVec w)) (a : Nat) (v : BitVec w) (hm : memWf d m = true) :
    memWf d (memWrite d m a v) = true := by
  unfold memWf memWrite at *
  split
  · exact memWfFrom_memErase m hm
  · rename_i hv
    exact memWfFrom_memInsert m hv (Nat.zero_le a) hm

/-- Memory made of a list of bytes is canonical. -/
theorem wf_memOfBytes (l : List (Word × Byte)) : Memory.wf (memOfBytes l) = true := by
  induction l with
  | nil => rfl
  | cons p t ih => exact memWf_memWrite _ _ _ ih

end Sys2Proof.Machine
end

