-- ==== Sys2Proof/Laws/Operations.lean ====
section
/-!
SUPPORT. What each shared operation can do, said once: data-space accesses, pushes and pops, taking an
exception, the return from one, and the count of cycles.
-/

namespace Sys2Proof.Machine

/-! ## Data space -/

theorem toNat_ne {a b : Word} (h : a ≠ b) : a.toNat ≠ b.toNat := fun e => h (BitVec.eq_of_toNat_eq e)

/-- The byte at `b` after a byte is stored at `a`. -/
theorem memRead_storeByte (m : List Host.Cell) (a b : Word) (v : Byte) :
    memRead unwrittenByte (storeByte m a v) b.toNat =
      if b = a then v else memRead unwrittenByte m b.toNat := by
  unfold storeByte
  split
  · rename_i h
    rw [h]
    exact memRead_memWrite_same m a.toNat v
  · rename_i h
    exact memRead_memWrite_other m v (toNat_ne h)

theorem word_ne_succ (a : Word) : a ≠ a + 1 := by
  intro h
  have : a.toNat = (a + 1).toNat := congrArg BitVec.toNat h
  simp at this
  omega

/-- The byte at `b` after a word is stored at `a`: bits 7:0 at `a`, bits 15:8 at `a + 1` (R80). -/
theorem memRead_storeWord (m : List Host.Cell) (a b v : Word) :
    memRead unwrittenByte (storeWord m a v) b.toNat =
      if b = a + 1 then v.extractLsb' 8 8
      else if b = a then v.extractLsb' 0 8
      else memRead unwrittenByte m b.toNat := by
  unfold storeWord
  rw [memRead_storeByte, memRead_storeByte]

theorem bytes_join (v : Word) : (v.extractLsb' 8 8 ++ v.extractLsb' 0 8 : BitVec 16) = v := by
  ext i hi
  simp only [BitVec.getElem_append, BitVec.getElem_extractLsb']
  split <;> simp_all

/-- The word at `a` of a data space where `v` was stored at `a` is `v`. -/
theorem readWord_of_storeWord (m : List Host.Cell) (a v : Word) (t : State) (h : t.data = storeWord m a v) :
    readWord t a = v := by
  unfold readWord readByte
  rw [h, memRead_storeWord, memRead_storeWord]
  simp only [if_true, word_ne_succ a, if_false]
  exact bytes_join v

/-- A word store leaves every byte outside its two addresses alone. -/
theorem readByte_of_storeWord (m : List Host.Cell) (a v b : Word) (t : State) (h : t.data = storeWord m a v)
    (h0 : b ≠ a) (h1 : b ≠ a + 1) : readByte t b = memRead unwrittenByte m b.toNat := by
  unfold readByte
  rw [h, memRead_storeWord, if_neg h1, if_neg h0]

/-- Every CPU store keeps the canonical form. -/
theorem wf_storeByte (m : List Host.Cell) (a : Word) (v : Byte) (h : Memory.wf m = true) :
    Memory.wf (storeByte m a v) = true := memWf_memWrite m a.toNat v h

theorem wf_storeWord (m : List Host.Cell) (a v : Word) (h : Memory.wf m = true) :
    Memory.wf (storeWord m a v) = true := wf_storeByte _ _ _ (wf_storeByte _ _ _ h)

/-! ## Pushes and pops -/

/-- A push moves W15 up by 2 (R10). -/
@[simp] theorem push16_w15 (v : Word) (s : State) : (push16 v s).w15 = s.w15 + 2 := rfl

/-- A push stores the word at the old W15 where the store lands, and nothing else (R10, R100). -/
theorem push16_data (v : Word) (s : State) :
    (push16 v s).data = if storeLands s true s.w15 then storeWord s.data s.w15 v else s.data := rfl

/-- A push at an even, implemented W15 lands and raises no address error. -/
theorem push16_lands {s : State} (h0 : s.w15.getLsbD 0 = false) (h1 : s.dataImpl s.w15 = true) :
    pushFaults s = false ∧ storeLands s true s.w15 = true := by
  unfold pushFaults storeLands accessFaults
  rw [h0, h1]
  simp

/-- The data-space checks look at the device only, so a push changes none of them. -/
@[simp] theorem push16_dataImpl (v : Word) (s : State) (a : Word) : (push16 v s).dataImpl a = s.dataImpl a := rfl

/-- A pop moves W15 down by 2 (R10). -/
@[simp] theorem popState_w15 (s : State) : (popState s).w15 = s.w15 - 2 := rfl

@[simp] theorem popState_dataImpl (s : State) (a : Word) : (popState s).dataImpl a = s.dataImpl a := rfl

theorem bit0_sub_two (a : Word) : (a - 2).getLsbD 0 = a.getLsbD 0 := by
  simp only [BitVec.getLsbD, Nat.testBit_zero, BitVec.toNat_sub]
  congr 1
  simp
  omega

theorem bit0_add_two (a : Word) : (a + 2).getLsbD 0 = a.getLsbD 0 := by
  simp only [BitVec.getLsbD, Nat.testBit_zero, BitVec.toNat_add]
  congr 1
  simp

/-- A pop at an even W15 over an implemented word reads that word and raises no address error. -/
theorem popValue_of_readable {s : State} (h0 : s.w15.getLsbD 0 = false) (h1 : s.dataImpl (s.w15 - 2) = true) :
    popFaults s = false ∧ popValue s = readWord s (s.w15 - 2) := by
  have f : popFaults s = false := by
    unfold popFaults accessFaults
    rw [bit0_sub_two, h0, h1]
    rfl
  exact ⟨f, by rw [popValue, f]; rfl⟩

/-! ## Taking an exception -/

/-- Taking an exception runs the exception process through a slot, or stops for the Reserved slot (U3). -/
theorem takeException_cases (x : Source) (s : State) :
    (∃ slot, vectorSlot x s = some slot ∧ takeException x s = .next (enter x slot s)) ∨
      (vectorSlot x s = none ∧ takeException x s = .fault .dmacVectorReserved) := by
  unfold takeException
  cases h : vectorSlot x s with
  | none => exact .inr ⟨rfl, rfl⟩
  | some slot => exact .inl ⟨slot, rfl, rfl⟩

/-- Only the DMAC error trap lacks a slot (R164). -/
theorem vectorSlot_isSome {x : Source} (h : x ≠ .trap .dmac) (s : State) : ∃ slot, vectorSlot x s = some slot := by
  unfold vectorSlot
  cases s.inAuxFlash with
  | some f => exact ⟨_, rfl⟩
  | none => exact ⟨_, by simp only [h, decide_false, Bool.and_false, Bool.false_and]; rfl⟩

section
variable (x : Source) (slot : ProgAddr) (s : State)

/-! What the exception process leaves alone (R231). -/

@[simp] theorem enter_splim : (enter x slot s).splim = s.splim := by simp [enter]
@[simp] theorem enter_splimEnabled : (enter x slot s).splimEnabled = s.splimEnabled := by simp [enter]
@[simp] theorem enter_intcon2 : (enter x slot s).intcon2 = s.intcon2 := by simp [enter]
@[simp] theorem enter_intcon3 : (enter x slot s).intcon3 = s.intcon3 := by simp [enter]
@[simp] theorem enter_intcon4 : (enter x slot s).intcon4 = s.intcon4 := by simp [enter]
@[simp] theorem enter_ifs : (enter x slot s).ifs = s.ifs := by simp [enter]
@[simp] theorem enter_iec : (enter x slot s).iec = s.iec := by simp [enter]
@[simp] theorem enter_ipc : (enter x slot s).ipc = s.ipc := by simp [enter]
@[simp] theorem enter_disicnt : (enter x slot s).disicnt = s.disicnt := by simp [enter]
@[simp] theorem enter_disiActive : (enter x slot s).disiActive = s.disiActive := by simp [enter]
@[simp] theorem enter_trapr : (enter x slot s).trapr = s.trapr := by simp [enter]
@[simp] theorem enter_clockFail : (enter x slot s).clockFail = s.clockFail := by simp [enter]
@[simp] theorem enter_power : (enter x slot s).power = s.power := by simp [enter]
@[simp] theorem enter_pinprev : (enter x slot s).pinprev = s.pinprev := by simp [enter]
@[simp] theorem enter_gieEff : (enter x slot s).gieEff = s.gieEff := by simp [enter]
@[simp] theorem enter_cycleCount : (enter x slot s).cycleCount = s.cycleCount := by simp [enter]
@[simp] theorem enter_prog : (enter x slot s).prog = s.prog := by simp [enter]
@[simp] theorem enter_dev : (enter x slot s).dev = s.dev := by simp [enter]
@[simp] theorem enter_inputs : (enter x slot s).inputs = s.inputs := by simp [enter]
@[simp] theorem enter_skid : (enter x slot s).skid = 0 := rfl
@[simp] theorem enter_w15 : (enter x slot s).w15 = s.w15 + 4 := by
  have : (enter x slot s).w15 = (s.w15 + 2#16) + 2#16 := by simp [enter]; rfl
  rw [this, BitVec.add_assoc]
  rfl
@[simp] theorem enter_data :
    (enter x slot s).data = (pushFrame { s with hardEvents := .none, hardHold := false }).data := by simp [enter]

end

/-! ## The return from an exception -/

section
variable (s : State)

@[simp] theorem returnFromException_data : (returnFromException s).data = s.data := by simp [returnFromException, pop16]
@[simp] theorem returnFromException_splim : (returnFromException s).splim = s.splim := by
  simp [returnFromException, pop16]
@[simp] theorem returnFromException_intcon2 : (returnFromException s).intcon2 = s.intcon2 := by
  simp [returnFromException, pop16]
@[simp] theorem returnFromException_ifs : (returnFromException s).ifs = s.ifs := by simp [returnFromException, pop16]
@[simp] theorem returnFromException_iec : (returnFromException s).iec = s.iec := by simp [returnFromException, pop16]
@[simp] theorem returnFromException_ipc : (returnFromException s).ipc = s.ipc := by simp [returnFromException, pop16]
@[simp] theorem returnFromException_dev : (returnFromException s).dev = s.dev := by simp [returnFromException, pop16]
@[simp] theorem returnFromException_prog : (returnFromException s).prog = s.prog := by simp [returnFromException, pop16]
@[simp] theorem returnFromException_inputs : (returnFromException s).inputs = s.inputs := by
  simp [returnFromException, pop16]
@[simp] theorem returnFromException_pc :
    (returnFromException s).pc = framePc (popValue s) (popValue (popState s)) := rfl

end

/-! ## Instruction cycles -/

/-- The count never wraps below zero (R132). -/
theorem tick_disicnt (n : Nat) (s : State) : (tick n s).disicnt.toNat = s.disicnt.toNat - n := by
  have := s.disicnt.isLt
  simp only [tick, BitVec.toNat_ofNat]
  omega

/-- After any number of cycles the effect of `DISI` lasts only while the count is not 0 (R132). -/
theorem tick_armed (n : Nat) (s : State) : (tick n s).disiActive = true → (tick n s).disicnt ≠ 0#14 := by
  intro h e
  have h1 : (tick n s).disicnt.toNat = 0 := by rw [e]; rfl
  rw [tick_disicnt] at h1
  simp only [tick, Bool.and_eq_true, decide_eq_true_eq] at h
  omega

end Sys2Proof.Machine
end

