-- ==== Sys2Proof/Laws/PerInstr.lean ====
section
/-!
SUPPORT. The families of lemmas with one member for each instruction.
-/

namespace Sys2Proof.Laws

/-- The encoder writes as many program words as the instruction occupies (R113). -/
def EncodeLength.Statement (i : Instr) : Prop := (encode i).length = i.words

theorem EncodeLength.nop : EncodeLength.Statement .nop := rfl
theorem EncodeLength.goto (target : ProgAddr) : EncodeLength.Statement (.goto target) := rfl
theorem EncodeLength.ret : EncodeLength.Statement .ret := rfl
theorem EncodeLength.retfie : EncodeLength.Statement .retfie := rfl
theorem EncodeLength.bra (slit16 : BitVec 16) : EncodeLength.Statement (.bra slit16) := rfl
theorem EncodeLength.disi (lit14 : BitVec 14) : EncodeLength.Statement (.disi lit14) := rfl
theorem EncodeLength.reset : EncodeLength.Statement .reset := rfl
theorem EncodeLength.pwrsav (mode : PowerSave) : EncodeLength.Statement (.pwrsav mode) := by cases mode <;> rfl

end Sys2Proof.Laws
end

