-- ==== Sys2Proof/Laws/Step.lean ====
section
/-!
SUPPORT. What the parts of a step can do, said once: the environment, the fetch, the choice between an
acknowledge and one more instruction, and the resolution of hard trap events (R161).
-/

namespace Sys2Proof.Machine

/-! ## The environment -/

/-- What every listed action keeps, a list of them keeps. -/
theorem actAll_keeps {P : State → Prop} {l : List EnvAction} (ha : ∀ a ∈ l, ∀ s, P s → P (act a s)) :
    ∀ s, P s → P (actAll l s) := by
  induction l with
  | nil => exact fun _ h => h
  | cons a t ih =>
    intro s h
    exact ih (fun b hb => ha b (List.mem_cons_of_mem a hb)) _ (ha a List.mem_cons_self s h)

/-- What every action of a boundary and every sample of the pins keeps, the environment keeps, wherever among the
actions the sample stands. -/
theorem environment_keeps {P : State → Prop} {b : Boundary} (ha : ∀ a ∈ b.actions, ∀ s, P s → P (act a s))
    (hp : ∀ levels s, P s → P (samplePins levels s)) (s : State) (h : P s) : P (environment b s) := by
  have first : P (actAll (b.actions.take b.pinsAfter) s) :=
    actAll_keeps (fun a m => ha a (List.mem_of_mem_take m)) s h
  unfold environment
  refine actAll_keeps (fun a m => ha a (List.mem_of_mem_drop m)) _ ?_
  cases b.pins with
  | none => exact first
  | some levels => exact hp levels _ first

/-! ## The fetch -/

/-- The fetch runs a decoded instruction, or what the inputs describe, or is refused by name, or, where a word of the
instruction is unimplemented, raises the address error trap. -/
theorem fetchAndRun_cases (b : Boundary) (s : State) :
    (fetchable b s = true ∧ ∃ i rest, decode (fetchWords s) = .ok (i, rest) ∧
      fetchAndRun b s = runInstr b.stalls i s) ∨
    (fetchable b s = true ∧ ∃ e, decode (fetchWords s) = .error e ∧
      ((∃ f, b.foreign = some f ∧ fetchAndRun b s = .next (runForeign b.stalls f s)) ∨
        (b.foreign = none ∧ ∃ w, fetchAndRun b s = .refused (.outsideTable w)))) ∨
    (fetchable b s = false ∧ fetchAndRun b s = .next (raiseAddressIf true s)) := by
  unfold fetchAndRun
  cases hf : fetchable b s with
  | false => exact .inr (.inr ⟨rfl, rfl⟩)
  | true =>
    cases hd : decode (fetchWords s) with
    | ok p => exact .inl ⟨rfl, p.1, p.2, rfl, rfl⟩
    | error e =>
      refine .inr (.inl ⟨rfl, e, rfl, ?_⟩)
      cases hb : b.foreign with
      | some f => exact .inl ⟨f, rfl, rfl⟩
      | none => exact .inr ⟨rfl, _, rfl⟩

/-- Running a decoded instruction counts its cycles after its meaning. -/
theorem runInstr_next {stalls : Nat} {i : Instr} {s t : State} (h : runInstr stalls i s = .next t) :
    ∃ u, exec i (beginInstr i.words s) = .next u ∧ t = tickInstr i (baseCycles s.dev i + stalls) u := by
  unfold runInstr at h
  cases he : exec i (beginInstr i.words s) with
  | next u =>
    rw [he] at h
    cases h
    exact ⟨u, rfl, rfl⟩
  | fault f => rw [he] at h; cases h
  | refused r => rw [he] at h; cases h

/-! ## Acknowledge or execute -/

/-- Taking an exception leaves the state of the exception process with its cycles counted. -/
theorem acknowledge_next {stalls : Nat} {x : Source} {s t : State} (h : acknowledge stalls x s = .next t) :
    ∃ u, takeException x s = .next u ∧ t = tickEntry stalls u := by
  unfold acknowledge at h
  cases he : takeException x s with
  | next u =>
    rw [he] at h
    cases h
    exact ⟨u, rfl, rfl⟩
  | fault f => rw [he] at h; cases h
  | refused r => rw [he] at h; cases h

/-- Without a winner the CPU executes; with one it is acknowledged, or one more instruction runs within the skid. -/
theorem arbitrate_cases (b : Boundary) (s : State) :
    (winner s = none ∧ arbitrate b s = fetchAndRun b { s with skid := 0 }) ∨
    ∃ x, winner s = some x ∧
      (((x.hard = true ∨ s.dev.skidMax ≤ s.skid) ∧ arbitrate b s = acknowledge b.stalls x s) ∨
       ((x.hard = false ∧ s.skid < s.dev.skidMax) ∧
        (arbitrate b s = acknowledge b.stalls x { s with draws := s.draws + 1 } ∨
          arbitrate b s = fetchAndRun b { s with skid := s.skid + 1, draws := s.draws + 1 }))) := by
  unfold arbitrate
  cases hw : winner s with
  | none => exact .inl ⟨rfl, rfl⟩
  | some x =>
    refine .inr ⟨x, rfl, ?_⟩
    by_cases hc : x.hard = true ∨ s.dev.skidMax ≤ s.skid
    · refine .inl ⟨hc, ?_⟩
      have : (x.hard || decide (s.dev.skidMax ≤ s.skid)) = true := by simpa using hc
      simp only [this, if_true]
    · have : (x.hard || decide (s.dev.skidMax ≤ s.skid)) = false := by simpa using hc
      rw [not_or, Bool.not_eq_true, Nat.not_le] at hc
      refine .inr ⟨hc, ?_⟩
      simp only [this, Bool.false_eq_true, if_false]
      cases Config.freeBit s.draws with
      | true => exact .inl rfl
      | false => exact .inr rfl

/-- Hard trap events come first: with none the step goes on, one above the CPU's level is acknowledged, a conflict
resets the device, and one at the CPU's level stops the machine (R217). -/
theorem resolveHard_cases (b : Boundary) (s : State) :
    (hardOutcome s = .none ∧ resolveHard b s = powered b s) ∨
    (∃ t, hardOutcome s = .take t ∧ resolveHard b s = acknowledge b.stalls (.trap t) (wakeIfAsleep s)) ∨
    (hardOutcome s = .conflict ∧ resolveHard b s = .next (deviceReset .trapConflict s)) ∨
    (hardOutcome s = .ownLevel ∧ resolveHard b s = .fault .hardTrapAtOwnLevel) := by
  unfold resolveHard
  cases hardOutcome s with
  | none => exact .inl ⟨rfl, rfl⟩
  | take t => exact .inr (.inl ⟨t, rfl, rfl⟩)
  | conflict => exact .inr (.inr (.inl ⟨rfl, rfl⟩))
  | ownLevel => exact .inr (.inr (.inr ⟨rfl, rfl⟩))

/-- Running, the CPU arbitrates; in Sleep or Idle it wakes and arbitrates, or does nothing (R237). -/
theorem powered_cases (b : Boundary) (s : State) :
    (s.power = .run ∧ powered b s = arbitrate b s) ∨
    (s.power ≠ .run ∧ wakes s = true ∧ powered b s = arbitrate b (wake s)) ∨
    (s.power ≠ .run ∧ wakes s = false ∧ powered b s = .next s) := by
  unfold powered
  by_cases hp : s.power = .run
  · exact .inl ⟨hp, if_pos hp⟩
  · rw [if_neg hp]
    cases wakes s with
    | true => exact .inr (.inl ⟨hp, rfl, rfl⟩)
    | false => exact .inr (.inr ⟨hp, rfl, rfl⟩)

end Sys2Proof.Machine
end

