-- ==== Sys2Proof/Tests/Slice0.lean ====
section
/-!
SUPPORT. Tests on fixed values.  The expected results are those of spec/95_test_vectors.md (the case is named) or
worked out by hand from the rule named.  The last part shows, for every statement that has hypotheses, a state and
operands that meet them (clause by clause, at boundary values).
-/

namespace Sys2Proof.Tests

open Sys2Proof Sys2Proof.Machine

/-! ## Helpers -/

/-- The reset state with these program words and this program counter. -/
def running (pc : ProgAddr) (prog : List (Nat × ProgWord)) : State := { State.reset with pc := pc, prog := prog }

/-- The outcome is a next state that passes the check. -/
def after (check : State → Bool) : Host.Outcome State Fault Refusal → Bool
  | .next t => check t
  | .fault _ => false
  | .refused _ => false

/-- The flag, the enable and the level of vector k, set as a test wants them. -/
def withIrq (k : Fin 246) (level : BitVec 3) (s : State) : State :=
  { s with
    ifs := (setFlag k.val s).ifs
    iec := s.iec.setIfInBounds (k.val / 16) ((s.iec[k.val / 16]?.getD 0#16) ||| (1#16 <<< (k.val % 16)))
    ipc := s.ipc.setIfInBounds (k.val / 4)
      (((s.ipc[k.val / 4]?.getD 0#16) &&& ~~~(7#16 <<< (4 * (k.val % 4)))) |||
        (level.setWidth 16 <<< (4 * (k.val % 4)))) }

/-- A device with a three-page Boot Segment (S1), the alternate table and FALTREG = 0xFFDB (S9). -/
def aivtDevice : Device :=
  { Device.default with hasAivt := true, aivtCfg := true, bslim := 0x1FFC#13, faltreg := 0xFFDB#16 }

/-- A device with Auxiliary Flash at 0x7FC000 (made up for the tests). -/
def auxDevice : Device :=
  { Device.default with auxFlash := some { low := 0x7FC000, high := 0x7FFFFF, vector := 0x7FFFFA#24, resetAt := none } }

/-- The same, with the reset location moved to its first address (R295). -/
def movedDevice : Device := { Device.default with
  auxFlash := some { low := 0x7FC000, high := 0x7FFFFF, vector := 0x7FFFFA#24, resetAt := some 0x7FC000#24 } }

/-- A device without any optional unit. -/
def plainDevice : Device :=
  { Device.default with
    hasAltW := false, hasDsp := false, div0errWithoutDsp := false, hasDma := false, hasUsb := false, hasApll := false }

/-- A device whose whole data space is implemented, so that W15 can lie anywhere. -/
def fullDevice : Device := { Device.default with dataRanges := [(0, 0xFFFF)] }

/-- The inputs of one boundary at which the instruction outside the table is this one (N21). -/
def doing (f : Foreign) : List Boundary := [{ Boundary.quiet with foreign := some f }]

/-- A one-word, one-cycle instruction outside the table with this one effect. -/
def oneEffect (e : CpuEffect) : Foreign := { twoWords := false, cycles := 1, effects := [e], target := none }

/-- An instruction outside the table of two words and without any effect. -/
def twoWordNothing : Foreign := { twoWords := true, cycles := 2, effects := [], target := none }

/-! ## WellFormed refuses what no encoding holds -/

theorem test_goto_odd_refused : (Instr.goto 0x000201#24).wellFormed = false := by decide
theorem test_goto_bit23_refused : (Instr.goto 0x800200#24).wellFormed = false := by decide
theorem test_goto_last_accepted : (Instr.goto 0x7FFFFE#24).wellFormed = true := by decide

/-! ## One word of each constructor, written bit by bit from R113 -/

theorem test_decode_nop : decode [0b000000001010101111001101#24] = .ok (.nop, []) := by decide
theorem test_decode_goto :
    decode [0b000001001111111111111110#24, 0b000000000000000001111111#24] = .ok (.goto 0x7FFFFE#24, []) := by decide
theorem test_decode_return : decode [0b000001100000000000000000#24] = .ok (.ret, []) := by decide
theorem test_decode_retfie : decode [0b000001100100000000000000#24] = .ok (.retfie, []) := by decide
theorem test_decode_bra : decode [0b001101111111111111111101#24] = .ok (.bra 0xFFFD#16, []) := by decide
theorem test_decode_disi : decode [0b111111000011111111111111#24] = .ok (.disi 0x3FFF#14, []) := by decide
theorem test_decode_reset : decode [0b111111100000000000000000#24] = .ok (.reset, []) := by decide
theorem test_decode_sleep : decode [0b111111100100000000000000#24] = .ok (.pwrsav .sleep, []) := by decide
theorem test_decode_idle : decode [0b111111100100000000000001#24] = .ok (.pwrsav .idle, []) := by decide
theorem test_table_word_goto : decodeTableWord 24 0x040200 = some (.goto 0x000200#24) := by decide
theorem test_table_word_goto_two : decodeTableWord 48 0x00007F04FFFE = some (.goto 0x7FFFFE#24) := by decide
theorem test_encode_bra : encode (.bra 0xFFFD#16) = [0x37FFFD#24] := by decide

/-! ## One step of each instruction -/

/-- P1: the `NOP` at 0x000200. -/
theorem test_nop : after (fun t => t.pc == 0x000202#24 && t.w15 == 0x1000#16 && t.cycleCount == 1)
    (step (running 0x000200#24 [(0x200, 0x000000#24)])) = true := by decide

/-- P1: `GOTO 0x000200` as the first instruction after Reset, placed with withFetchWord; it takes 2 cycles. -/
theorem test_goto : after (fun t => t.pc == 0x000200#24 && t.cycleCount == 2)
    (step (State.reset.withFetchWord 24 0x040200)) = true := by decide

/-- P3: `GOTO` to an unimplemented address raises the address error trap. -/
theorem test_goto_unimplemented :
    after (fun t => t.pc == 0x7FFFFE#24 && t.intcon1 == 0x0008#16 && t.hardHold && t.hardEvents.addr)
      (step (running 0x000200#24 [(0x200, 0x04FFFE#24), (0x202, 0x00007F#24)])) = true := by decide

/-- R200 item f, log entry 24: a `GOTO` in the last implemented word traps and does not run. -/
theorem test_goto_second_word_unimplemented :
    after (fun t => t.pc == 0x000FFE#24 && t.intcon1 == 0x0008#16 && t.hardEvents.addr)
      (step (running 0x000FFE#24 [(0xFFE, 0x040200#24)])) = true := by decide

/-- P1: `BRA 0x000200` at 0x000204. -/
theorem test_bra : after (fun t => t.pc == 0x000200#24) (step (running 0x000204#24 [(0x204, 0x37FFFD#24)])) = true := by
  decide

/-- R139: `RETURN` takes two words off the stack and keeps SR, here at level 4. -/
theorem test_return : after (fun t => t.w15 == 0x1000#16 && t.sr == 0x0080#16 && t.intcon1 == 0#16)
    (step { running 0x000200#24 [(0x200, 0x060000#24)] with w15 := 0x1004#16, sr := 0x0080#16 }) = true := by decide

/-- F2: SRL, SFA and PC<22:16> come from the frame. -/
theorem test_retfie : after (fun t => t.pc == 0x012346#24 && t.sr == 0x0083#16 && t.corcon == 0x0024#16 &&
      t.w15 == 0x1800#16 && t.cycleCount == 3)
    (step { running 0x000200#24 [(0x200, 0x064000#24)] with
      w15 := 0x1804#16, sr := 0x00C3#16
      data := [(0x1800, 0x47#8), (0x1801, 0x23#8), (0x1802, 0x01#8), (0x1803, 0x83#8)] }) = true := by decide

/-- F4: popping below 0x1000 raises the stack error. -/
theorem test_retfie_underflow : after (fun t => t.w15 == 0x0FFC#16 && t.intcon1 == 0x0004#16)
    (step (running 0x000200#24 [(0x200, 0x064000#24)])) = true := by decide

/-- P2: `DISI #2`; INTCON2 then reads 0xC000. -/
theorem test_disi : after (fun t => t.disicnt == 2#14 && readSfr t .intcon2 == 0xC000#16)
    (step (running 0x000200#24 [(0x200, 0xFC0002#24)])) = true := by decide

/-- D2v: `DISI #0` masks nothing. -/
theorem test_disi_zero : after (fun t => !t.disiActive && readSfr t .intcon2 == 0x8000#16)
    (step (running 0x000200#24 [(0x200, 0xFC0000#24)])) = true := by decide

/-- P3: `RESET` in the address error handler. -/
theorem test_reset : after (fun t => t.pc == 0#24 && t.w15 == 0x1000#16 && t.sr == 0#16 && t.corcon == 0x0020#16 &&
      t.intcon1 == 0#16 && t.intcon2 == 0x8000#16)
    (step { running 0x000400#24 [(0x400, 0xFE0000#24)] with
      w15 := 0x1004#16, sr := 0x00C0#16, corcon := 0x0028#16, intcon1 := 0x0008#16 }) = true := by decide

/-- P5: `PWRSAV #0`. -/
theorem test_sleep : after (fun t => t.power == .sleep && t.pc == 0x000202#24)
    (step (running 0x000200#24 [(0x200, 0xFE4000#24)])) = true := by decide

/-- R290, R295: `pc` after `RESET` with Auxiliary Flash, where the reset location stays and where it is moved. -/
theorem test_reset_location :
    after (fun t => t.pc == 0#24) (exec .reset { State.resetOn auxDevice with pc := 0x000400#24 }) = true ∧
    after (fun t => t.pc == 0x7FC000#24) (exec .reset { State.resetOn movedDevice with pc := 0x000400#24 }) = true := by
  decide

/-- R114: `PWRSAV #1` is Idle. -/
theorem test_idle : after (fun t => t.power == .idle)
    (step (running 0x000200#24 [(0x200, 0xFE4001#24)])) = true := by decide

/-! ## Taking an exception -/

/-- E1, taken at the end of the skid. -/
theorem test_entry : after (fun t => readWord t 0x1000#16 == 0x0202#16 && readWord t 0x1002#16 == 0#16 &&
      t.w15 == 0x1004#16 && t.sr == 0x0080#16 && t.corcon == 0x0020#16 && t.inttreg == 0x0403#16 && t.pc == 0x000300#24)
    (step { withIrq 3 4#3 (running 0x000202#24 [(0x1A, 0x000300#24)]) with skid := 2 }) = true := by decide

/-- E2: PC<22:16>, SRL and SFA in the frame. -/
theorem test_entry_frame : after (fun t => readWord t 0x1800#16 == 0x2347#16 && readWord t 0x1802#16 == 0x8301#16 &&
      t.sr == 0x00C3#16 && t.corcon == 0x0020#16 && t.inttreg == 0x0661#16 && t.pc == 0x000300#24)
    (takeException (.irq 97) (withIrq 97 6#3 { running 0x012346#24 [(0xD6, 0x000301#24)] with
      w15 := 0x1800#16, sr := 0x0083#16, corcon := 0x0024#16 })) = true := by decide

/-- E3: with NSTDIS the CPU runs at 7 and ILR keeps the source's level. -/
theorem test_entry_nstdis : after (fun t => t.sr == 0x00E0#16 && t.inttreg == 0x0403#16)
    (takeException (.irq 3) (withIrq 3 4#3 { running 0x000202#24 [] with intcon1 := 0x8000#16 })) = true := by decide

/-- E5: the address error trap over the math error handler. -/
theorem test_entry_trap : after (fun t => readWord t 0x100A#16 == 0x6080#16 && t.sr == 0x00C0#16 &&
      t.corcon == 0x0028#16 && t.cpl == 14#4 && !t.hardHold)
    (takeException (.trap .address) { running 0x000410#24 [] with
      w15 := 0x1008#16, sr := 0x0060#16, corcon := 0x0028#16, intcon1 := 0x0008#16, hardHold := true
      hardEvents := { HardEvents.none with addr := true } }) = true := by decide

/-- V9: interrupt 3 through the Alternate table of a three-page Boot Segment. -/
theorem test_alternate_slot :
    vectorSlot (.irq 3) { State.resetOn aivtDevice with intcon2 := 0x8100#16 } = some 0x00081A#24 := by decide

/-! ## Hard traps, arbitration, wake-up, the environment -/

/-- H2: two hard trap events at one boundary reset the device. -/
theorem test_conflict : after (fun t => t.trapr && t.intcon1 == 0#16)
    (step { running 0x000200#24 [] with
      hardHold := true, hardEvents := { HardEvents.none with addr := true }
      inputs := [{ Boundary.quiet with actions := [.oscFail] }] }) = true := by decide

/-- A2: the level goes before the natural order. -/
theorem test_level_first : winner (withIrq 9 5#3 (withIrq 5 4#3 State.reset)) = some (.irq 9) := by decide

/-- W5: with GIE = 0 the CPU wakes and goes on after the `PWRSAV`. -/
theorem test_wake : after (fun t => t.power == .run && t.pc == 0x000204#24 && t.w15 == 0x1000#16)
    (step { withIrq 5 4#3 (running 0x000202#24 [(0x202, 0#24)]) with
      power := .sleep, intcon2 := 0#16, gieEff := false }) = true := by decide

/-- X3: a falling edge on pin 1 with INT1EP = 1. -/
theorem test_falling_edge : (samplePins 0#5 { State.reset with intcon2 := 0x8002#16, pinprev := 2#5 }).flag 1 = true := by
  decide

/-- R161 item 1, D18: the edge sampled after the Reset action sets its flag, the one sampled before it is lost. -/
theorem test_pins_beside_reset :
    (environment { Boundary.quiet with actions := [.reset], pinsAfter := 1, pins := some 1#5 } State.reset).flag 0 = true ∧
    (environment { Boundary.quiet with actions := [.reset], pins := some 1#5 } State.reset).flag 0 = false := by decide

/-- R90 item a, D22: an access through W15 at 0x1004 that leaves W15 = 0x0FFC raises the stack error; R188, R29: a divide
by zero with the accumulators, without them, and without them where DIV0ERR stays (log entry 12); R81, R10: a MAC-class fetch at an odd address. -/
theorem test_foreign_flags :
    (execForeign (oneEffect (.access { write := false, word := true, ea := 0x1004#16, value := 0#16, viaW15 := some false }))
      { State.reset with w15 := 0x0FFC#16 }).intcon1 = 0x0004#16 ∧
    (execForeign (oneEffect (.divide 0#16)) State.reset).intcon1 = 0x0050#16 ∧
    (execForeign (oneEffect (.divide 0#16)) (State.resetOn plainDevice)).intcon1 = 0x0010#16 ∧
    (execForeign (oneEffect (.divide 0#16)) (State.resetOn { plainDevice with div0errWithoutDsp := true })).intcon1 =
      0x0050#16 ∧
    (execForeign (oneEffect (.macFetch false 0x1001#16)) State.reset).intcon1 = 0x0008#16 := by decide

/-- D6v, L6 and L8: software writes of DISICNT, CORCON.IPL3 and INTCON2. -/
theorem test_software_writes :
    (swWrite .corcon 0x0008#16 0xFFFF#16 State.reset).ipl3 = false ∧
    readSfr (swWrite .disicnt 0xFFFF#16 100#16 State.reset) .intcon2 = 0x8000#16 ∧
    readSfr (swWrite .intcon2 0xFFFF#16 0xFFFF#16 (State.resetOn aivtDevice)) .intcon2 = 0xA11F#16 := by decide

/-! ## The hypotheses of the statements can be met

One theorem for each statement that has hypotheses, one conjunct for each of its clauses. -/

/-- A state with this instruction word at 0x000200, ready to fetch it. -/
def fetching (w : ProgWord) : State := running 0x000200#24 [(0x200, w)]

/-- A frame of two words below W15 = 0x1004, returning to 0x000202 with this SRL. -/
def framed (d : Device) (srl : Byte) : State :=
  { State.resetOn d with w15 := 0x1004#16, data := storeByte [(0x1000, 0x02#8), (0x1001, 0x02#8)] 0x1003#16 srl }

/-- The level that the frame restores. -/
def framedLevel (d : Device) (srl : Byte) : BitVec 4 :=
  BitVec.ofBool ((readWord (framed d srl) 0x1002#16).getLsbD 7) ++ (readWord (framed d srl) 0x1002#16).extractLsb' 13 3

theorem met_EncodedInstructionDecodesToItself : (Instr.goto 0x7FFFFE#24).wellFormed = true ∧
    (Instr.goto 0x000000#24).wellFormed = true ∧ (Instr.disi 0x3FFF#14).wellFormed = true := by decide

theorem met_DecodedWordsAreTheEncoding : decode [0x00FFFF#24, 0x060000#24] = .ok (.nop, [0x060000#24]) ∧
    decode [0x040000#24, 0x00007F#24] = .ok (.goto 0x7F0000#24, []) := by decide

theorem met_OtherWordsAreRejectedByName : topByte 0xFF0000#24 ∉ [0x00#8, 0x04#8, 0x06#8, 0x37#8, 0xFC#8, 0xFE#8] ∧
    (topByte 0x040001#24 = 0x04#8 ∧ (0x040001#24).getLsbD 0 = true) ∧
    topByte 0x060001#24 = 0x06#8 ∧
    (topByte 0xFC4000#24 = 0xFC#8 ∧ (0xFC4000#24).extractLsb' 14 2 ≠ 0#2) ∧
    topByte 0xFE4002#24 = 0xFE#8 ∧
    (topByte 0x040200#24 = 0x04#8 ∧ (0x040200#24).getLsbD 0 = false ∧ (0x000080#24).extractLsb' 7 17 ≠ 0#17) := by
  decide

/-- A state at level 15, with a request and a trap pending and memory and flags that are not those of Reset. -/
def busy : State := { withIrq 245 7#3 (fetching 0x000000#24) with
  data := [(0x1000, 1#8)], intcon1 := 0x8010#16, sr := 0x00E0#16, corcon := 0x0028#16 }

theorem met_EveryStepKeepsTheInvariant : busy.Inv ∧ ∃ t, step busy = .next t :=
  ⟨{ dataCanonical := by decide, progCanonical := by decide, pcEven := by decide, holdIffEvent := by decide
     disiArmed := by decide, skidBound := by decide, defaultSet := by decide, corconBits := by decide
     intcon1Bits := by decide, intcon2Bits := by decide, intcon3Bits := by decide, intcon4Bits := by decide
     inttregBits := by decide, flagBits := by decide, enableBits := by decide, levelBits := by decide }, _, rfl⟩

theorem met_StepKeepsDeviceAndProgram : ∃ t, step { busy with inputs := [Boundary.quiet] } = .next t := ⟨_, rfl⟩

theorem met_OnlySoftwareOrResetClearsAFlag :
    (withIrq 5 0#3 (fetching 0x000000#24)).boundary.foreign = none ∧
    EnvAction.reset ∉ (withIrq 5 0#3 (fetching 0x000000#24)).boundary.actions ∧
    (withIrq 5 0#3 (fetching 0x000000#24)).flag 5 = true ∧ ∃ t, step (withIrq 5 0#3 (fetching 0x000000#24)) = .next t :=
  ⟨rfl, by decide, by decide, _, rfl⟩

theorem met_StepRunsTheDecodedInstruction :
    (FreeToFetch (fetching 0x000000#24).atBoundary ∧ Fetches (fetching 0x000000#24).atBoundary .nop) ∧
    (FreeToFetch (fetching 0xFC0002#24).atBoundary ∧ Fetches (fetching 0xFC0002#24).atBoundary (.disi 2#14)) :=
  ⟨⟨⟨by decide, by decide, by decide⟩, by decide, by decide, _, rfl⟩,
   ⟨by decide, by decide, by decide⟩, by decide, by decide, _, rfl⟩

/-- A divide by zero at 0x000200 (an instruction outside the table, described by the inputs: N21). -/
def dividing : State := { fetching 0xFF0000#24 with inputs := doing (oneEffect (.divide 0#16)) }

/-- A `GOTO` at 0x000200 whose second word no row matches. -/
def badGoto : State := running 0x000200#24 [(0x200, 0x040200#24), (0x202, 0x000080#24)]

/-- Refused and run: one word, two words, and a `GOTO` with a second word outside the table. -/
theorem met_StepOnAWordOutsideTheTable :
    (FreeToFetch (fetching 0xFF0000#24).atBoundary ∧
      (fetching 0xFF0000#24).atBoundary.progImpl (fetching 0xFF0000#24).atBoundary.pc = true ∧
      decode (fetchWords (fetching 0xFF0000#24).atBoundary) = .error (.outsideTable 0xFF0000#24) ∧
      (fetching 0xFF0000#24).boundary.foreign = none) ∧
    (FreeToFetch badGoto.atBoundary ∧ badGoto.atBoundary.progImpl badGoto.atBoundary.pc = true ∧
      decode (fetchWords badGoto.atBoundary) = .error (.gotoSecondWord 0x000080#24) ∧
      badGoto.boundary.foreign = none ∧ badGoto.atBoundary.progImpl (badGoto.atBoundary.pc + 2#24) = true) ∧
    (FreeToFetch dividing.atBoundary ∧ dividing.atBoundary.progImpl dividing.atBoundary.pc = true ∧
      decode (fetchWords dividing.atBoundary) = .error (.outsideTable 0xFF0000#24) ∧
      dividing.boundary.foreign = some (oneEffect (.divide 0#16))) ∧
    (({ dividing with inputs := doing twoWordNothing } : State).boundary.foreign = some twoWordNothing ∧
      dividing.atBoundary.progImpl (dividing.atBoundary.pc + 2#24) = true) :=
  ⟨⟨⟨by decide, by decide, by decide⟩, by decide, by decide, by decide⟩,
   ⟨⟨by decide, by decide, by decide⟩, by decide, by decide, by decide, by decide⟩,
   ⟨⟨by decide, by decide, by decide⟩, by decide, by decide, by decide⟩, by decide, by decide⟩

/-- This word in the last implemented program word, 0x000FFE, with a two-word instruction in the inputs. -/
def lastWord (w : ProgWord) : State := { running 0x000FFE#24 [(0xFFE, w)] with inputs := doing twoWordNothing }

/-- The first unimplemented program address; a `GOTO`, and a two-word instruction outside the table, just below it. -/
theorem met_FetchFromUnimplementedAddressTraps :
    (FreeToFetch (running 0x001000#24 []).atBoundary ∧
      (running 0x001000#24 []).atBoundary.progImpl (running 0x001000#24 []).atBoundary.pc = false) ∧
    (FreeToFetch (lastWord 0x040200#24).atBoundary ∧
      (lastWord 0x040200#24).atBoundary.progImpl ((lastWord 0x040200#24).atBoundary.pc + 2#24) = false ∧
      0x040200#24 ∈ (fetchWords (lastWord 0x040200#24).atBoundary).head? ∧ topByte 0x040200#24 = 0x04#8 ∧
      (0x040200#24).getLsbD 0 = false) ∧
    (FreeToFetch (lastWord 0xFF0000#24).atBoundary ∧
      (lastWord 0xFF0000#24).atBoundary.progImpl ((lastWord 0xFF0000#24).atBoundary.pc + 2#24) = false ∧
      (lastWord 0xFF0000#24).boundary.foreign = some twoWordNothing ∧
      decode (fetchWords (lastWord 0xFF0000#24).atBoundary) = .error (.outsideTable 0xFF0000#24)) :=
  ⟨⟨⟨by decide, by decide, by decide⟩, by decide⟩,
   ⟨⟨by decide, by decide, by decide⟩, by decide, by decide, by decide, by decide⟩,
   ⟨by decide, by decide, by decide⟩, by decide, by decide, by decide⟩

theorem met_GotoLoadsTheProgramCounter :
    State.reset.progImpl 0x000FFE#24 = true ∧ State.reset.progImpl 0x001000#24 = false := by decide

theorem met_BraAddsTwiceTheSignedOffset :
    (0x000FFE#24 = BitVec.ofInt 24 (((0x001000#24).toNat : Int) + 2 * (0xFFFF#16).toInt)) ∧
    (0xFFFFFE#24 = BitVec.ofInt 24 (((0x000000#24).toNat : Int) + 2 * (0xFFFF#16).toInt)) ∧
    State.reset.progImpl 0x000FFE#24 = true ∧ State.reset.progImpl 0xFFFFFE#24 = false := by decide

/-- W15 at the bottom, at the floor and at the top of the implemented data space; and W15 = 0, whose borrow alone is a
wrap (log entry 13), where all of it is implemented. -/
theorem met_ReturnPopsTheReturnAddress : StackReadable { State.reset with w15 := 0x0004#16 } ∧
    StackReadable State.reset ∧ StackReadable { State.reset with w15 := 0x2000#16 } ∧
    StackReadable { State.resetOn fullDevice with w15 := 0x0000#16 } ∧
    popsViolate { State.resetOn fullDevice with w15 := 0x0000#16 } = true ∧
    popsViolate { State.resetOn fullDevice with w15 := 0x1004#16 } = false := by
  refine ⟨?_, ?_, ?_, ?_, by decide, by decide⟩ <;> exact ⟨by decide, by decide, by decide⟩

/-- Frames that return to level 0, 4 and 6 with FALTREG = 0xFFDB (C4v), and a device without alternate sets (C5v). -/
theorem met_RetfieRestoresTheFrame :
    StackReadable (framed aivtDevice 0x00#8) ∧ StackReadable (framed aivtDevice 0x80#8) ∧
    StackReadable (framed aivtDevice 0xC0#8) ∧ StackReadable (framed plainDevice 0x00#8) ∧
    (framed plainDevice 0x00#8).dev.hasAltW = false ∧
    ((framed aivtDevice 0x00#8).dev.hasAltW = true ∧ (framed aivtDevice 0x00#8).nstdis = false ∧
      framedLevel aivtDevice 0x00#8 = 0#4) ∧
    (ctxLevel (Device.ctxt1 aivtDevice) = some (framedLevel aivtDevice 0x80#8) ∧
      ctxLevel (Device.ctxt2 aivtDevice) ≠ some (framedLevel aivtDevice 0x80#8)) ∧
    (ctxLevel (Device.ctxt2 aivtDevice) = some (framedLevel aivtDevice 0xC0#8) ∧
      ctxLevel (Device.ctxt1 aivtDevice) ≠ some (framedLevel aivtDevice 0xC0#8)) ∧
    StackReadable { State.resetOn fullDevice with w15 := 0x0000#16, intcon1 := 0x8000#16 } :=
  ⟨⟨by decide, by decide, by decide⟩, ⟨by decide, by decide, by decide⟩, ⟨by decide, by decide, by decide⟩,
   ⟨by decide, by decide, by decide⟩, by decide, by decide, by decide, by decide, by decide, by decide, by decide⟩

/-- An odd W15, the first W15 whose pop is unimplemented, and one of which only the second word is; an odd one below the
floor (T21). -/
theorem met_PopOfAnUnreadableWordTraps : ¬ StackReadable { State.reset with w15 := 0x1005#16 } ∧
    ¬ StackReadable { State.reset with w15 := 0x2002#16 } ∧
    (State.reset.dataImpl (0x0002#16 - 2) = true ∧ ¬ StackReadable { State.reset with w15 := 0x0002#16 }) ∧
    (¬ StackReadable { State.reset with w15 := 0x1001#16 } ∧ popsViolate { State.reset with w15 := 0x1001#16 } = true) ∧
    popsViolate { State.reset with w15 := 0x1005#16 } = false :=
  ⟨fun h => absurd h.1 (by decide), fun h => absurd h.2.1 (by decide),
   ⟨by decide, fun h => absurd h.2.2 (by decide)⟩, ⟨fun h => absurd h.1 (by decide), by decide⟩, by decide⟩

/-- A11: a level 7 interrupt is eligible while `DISI` is in effect, one of level 6 is not, and is where it ended. -/
theorem met_DisiStatusBitMirrorsTheCounter :
    eligibleIrq (withIrq 9 7#3 { State.reset with disicnt := 1#14, disiActive := true }) 9 = true ∧
    eligibleIrq (withIrq 9 6#3 { State.reset with disicnt := 1#14, disiActive := true }) 9 = false ∧
    eligibleIrq (withIrq 9 6#3 { State.reset with disicnt := 1#14 }) 9 = true := by decide

/-- R311, D6: a field write of the form of S13, of 6 to the lowest field of IPC2, names the bits 2 to 0 and changes the
level of vector 8 alone. -/
theorem test_level_field_write : (swWrite (.ipc 2) 0x0007#16 0x0006#16 State.reset).level 8 = 6#3 ∧
    (swWrite (.ipc 2) 0x0007#16 0x0006#16 State.reset).level 9 = 4#3 := by decide

/-- A write that takes SWTRAP from 0 to 1; one where it is 1 already, one that writes 0, one that does not name it. -/
theorem met_SoftwareWriteOfIntcon2Intcon3AndRcon :
    (State.reset.swtrap = false ∧ (0x2000#16).getLsbD 13 = true ∧ (0xA000#16).getLsbD 13 = true) ∧
    ({ State.reset with intcon2 := 0xA000#16 } : State).swtrap = true ∧ (0x8000#16).getLsbD 13 = false ∧
    (0x00FF#16).getLsbD 13 = false := by decide

theorem met_SoftwareWriteOfSght : (0xFFFF#16).getLsbD 0 = true ∧ (0xFFFE#16).getLsbD 0 = false ∧
    State.reset.intcon4.getLsbD 0 = false ∧ ({ State.reset with intcon4 := 1#16 } : State).intcon4.getLsbD 0 = true ∧
    State.reset.swtrap = false ∧ ({ State.reset with intcon2 := 0xA000#16 } : State).swtrap = true := by decide

/-- The mask of a byte write, and of a write of bits 14 to 0. -/
theorem met_WordWriteOfSplimEnablesTheCheck : 0x00FF#16 ≠ 0xFFFF#16 ∧ 0x7FFF#16 ≠ 0xFFFF#16 := by decide

theorem met_SoftwareWriteOfDisicnt :
    ({ State.reset with disicnt := 1#14, disiActive := true } : State).disiInEffect = true ∧
    State.reset.disiInEffect = false := by decide

/-- An accumulator overflow of A and one of B that persists; one whose enable is 0 does not. -/
theorem met_SoftwareWriteOfIntcon1 :
    ((0x0010#16).getLsbD 4 = true ∧ (0x0000#16).getLsbD 4 = false) ∧
    (({ State.reset with intcon1 := 0x0410#16, sr := 0x8000#16 } : State).intcon1.getLsbD 10 = true ∧
      ({ State.reset with intcon1 := 0x0410#16, sr := 0x8000#16 } : State).sr.getLsbD 15 = true) ∧
    (({ State.reset with intcon1 := 0x0210#16, sr := 0x4000#16 } : State).intcon1.getLsbD 9 = true ∧
      ({ State.reset with intcon1 := 0x0210#16, sr := 0x4000#16 } : State).sr.getLsbD 14 = true) ∧
    (({ State.reset with intcon1 := 0x0010#16, sr := 0xC000#16 } : State).intcon1.getLsbD 10 = false ∧
      ({ State.reset with intcon1 := 0x0010#16, sr := 0xC000#16 } : State).intcon1.getLsbD 9 = false) := by decide

theorem met_DivideByZeroSetsItsFlags : State.reset.dev.hasDsp = true ∧ (State.resetOn plainDevice).dev.hasDsp = false ∧
    (State.resetOn plainDevice).dev.div0errWithoutDsp = false ∧
    ({ plainDevice with div0errWithoutDsp := true } : Device).div0errWithoutDsp = true ∧
    0x0001#16 ≠ 0x0000#16 := by decide

theorem met_AccumulatorCausesSetTheirFlags :
    State.reset.dev.hasDsp = true ∧ (State.resetOn plainDevice).dev.hasDsp = false := by decide

theorem met_DoStackOverflow : ({ State.reset with corcon := 0x0420#16 } : State).dl = 4#3 ∧
    ({ State.reset with corcon := 0x0320#16 } : State).dl.toNat < 4 ∧ State.reset.dl.toNat < 4 := by decide

/-- The access reads a word at this address, formed from W15 without a wrap. -/
def viaPointer (ea : Word) : CpuEffect :=
  .access { write := false, word := true, ea := ea, value := 0#16, viaW15 := some false }

/-- STKERR after one effect from a state with this W15 and SPLIM = 0x1FFA enabled: the floor and the limit of the
address at their boundaries, W15 left below the floor, a write of W15, and an access that does not use W15. -/
theorem met_StackChecks :
    let flag : Word → CpuEffect → Bool := fun w e => (execForeign (oneEffect e)
      { State.reset with w15 := w, splim := 0x1FFA#16, splimEnabled := true }).intcon1.getLsbD 2
    State.reset.intcon1.getLsbD 2 = false ∧
    (flag 0x1000#16 (viaPointer 0x0FFE#16) = true ∧ flag 0x1000#16 (viaPointer 0x1000#16) = false) ∧
    (flag 0x1000#16 (viaPointer 0x1FFA#16) = false ∧ flag 0x1000#16 (viaPointer 0x1FFC#16) = true) ∧
    (flag 0x0FFE#16 (viaPointer 0x1004#16) = true ∧ flag 0x1000#16 (.w15Write 0x0FFE#16) = true ∧
      flag 0x0FFE#16 (.w15Write 0x1000#16) = false) ∧
    flag 0x0FFE#16 (.access { write := false, word := true, ea := 0x0800#16, value := 0#16, viaW15 := none }) = false ∧
    accessFaults State.reset false true 0x1FFE#16 = false := by decide

/-- The last word of the implemented data space, and the first; its last byte, which is odd; and the address after. -/
theorem met_StoresWriteTheirBytes :
    ((0x1FFE#16).getLsbD 0 = false ∧ State.reset.dataImpl 0x1FFE#16 = true) ∧
    ((0x0000#16).getLsbD 0 = false ∧ State.reset.dataImpl 0x0000#16 = true) ∧
    State.reset.dataImpl 0x1FFF#16 = true ∧ State.reset.dataImpl 0x2000#16 = false := by decide

/-- T13, T14: a misaligned word access, an unimplemented address; page 0; a fetch from the other space, and a misaligned
one. -/
theorem met_AddressErrorInhibitsTheWrites :
    effectFaults State.reset
      (.access { write := true, word := true, ea := 0x1801#16, value := 0#16, viaW15 := none }) = true ∧
    effectFaults State.reset
      (.access { write := false, word := false, ea := 0x2000#16, value := 0#16, viaW15 := none }) = true ∧
    effectFaults State.reset (.paged 0#16) = true ∧ effectFaults State.reset (.macFetch true 0x1000#16) = true ∧
    effectFaults State.reset (.macFetch false 0x1001#16) = true ∧
    effectFaults State.reset (.macFetch false 0x1000#16) = false := by decide

theorem met_DmaAddressError : (State.reset.dev.hasDma = true ∧ State.reset.dataImpl 0x2000#16 = false) ∧
    State.reset.dataImpl 0x1FFF#16 = true ∧ (State.resetOn plainDevice).dev.hasDma = false := by decide

theorem met_CpuWinsTheWriteCollision : State.reset.dev.hasDma = true ∧ State.reset.dataImpl 0x1FFF#16 = true ∧
    0x1FFF#16 ∈ ({ State.reset with cpuWrites := [0x1FFF#16] } : State).cpuWrites ∧
    0x1FFF#16 ∉ State.reset.cpuWrites := by decide

/-- The last table that fits, the first that does not, and one beyond data space. -/
theorem met_UsbOscillatorPllAndNvmActions : State.reset.dev.hasUsb = true ∧
    (∀ i < 512, (0x1E00#32).toNat + i ≤ 0xFFFF ∧ inRanges State.reset.dev.dataRanges ((0x1E00#32).toNat + i) = true) ∧
    (inRanges State.reset.dev.dataRanges ((0x1E01#32).toNat + 511) = false) ∧
    0xFFFF < (0xFFFFFE00#32).toNat + 0 ∧ State.reset.dataImpl 0x2000#16 = false ∧
    State.reset.dataImpl 0x1FFF#16 = true ∧ (State.resetOn plainDevice).dev.hasUsb = false := by
  refine ⟨by decide, fun i hi => ?_, by decide, by decide, by decide, by decide, by decide⟩
  have e : (0x1E00#32).toNat = 0x1E00 := by decide
  rw [e]
  exact ⟨by omega, by simp [State.reset, State.resetOn, Device.default, inRanges]; omega⟩

/-- A9 and A17: the stack error trap before the math error trap, and traps without GIE. -/
theorem met_WinnerIsTheFirstEligible :
    winner (withIrq 5 7#3 { State.reset with intcon1 := 0x0014#16, intcon2 := 0#16, gieEff := false }) =
      some (.trap .stack) ∧
    winner (withIrq 5 7#3 { State.reset with intcon2 := 0#16 }) = some (.irq 5) ∧
    winner (withIrq 5 7#3 { State.reset with intcon2 := 0#16, gieEff := false }) = none := by decide

/-- Vector 5 alone is requested, at this level, on a device of six vectors. -/
def onlyFive (level : BitVec 3) : State := withIrq 5 level (State.resetOn { Device.default with nirq := 6 })

theorem onlyFive_req (level : BitVec 3) (j : Nat) (h : j ≠ 5) : (onlyFive level).req j = false := by
  by_cases hj : j < 6
  · have : j = 0 ∨ j = 1 ∨ j = 2 ∨ j = 3 ∨ j = 4 := by omega
    have e : (onlyFive level).req j = (onlyFive 0#3).req j := rfl
    rw [e]
    rcases this with rfl | rfl | rfl | rfl | rfl <;> decide
  · have : (onlyFive level).dev.impl j = false := by
      unfold Device.impl
      have : decide (j < (onlyFive level).dev.nirq) = false := decide_eq_false hj
      rw [this, Bool.false_and, Bool.false_and]
    unfold State.req
    rw [this, Bool.false_and, Bool.false_and]

theorem met_LevelZeroIsDisabled : (onlyFive 0#3).level 5 = 0#3 ∧
    (∀ t, eligibleTrap (onlyFive 0#3) t = false) ∧ (∀ j, j ≠ 5 → (onlyFive 0#3).req j = false) ∧
    (onlyFive 0#3).dev.impl 5 = true ∧ ((0 : Fin 16).val = 5 / 16) :=
  ⟨by decide, fun t => by cases t <;> decide, onlyFive_req 0#3, by decide, by decide⟩

theorem met_MaskedLevels : 7 ≤ ({ State.reset with sr := 0x00E0#16 } : State).cpl.toNat ∧
    (({ State.reset with intcon2 := 0#16, gieEff := false } : State).gie = false) ∧
    ({ State.reset with sr := 0x00E0#16, corcon := 0x0028#16 } : State).cpl.toNat = 15 := by decide

/-- V9, V10; Auxiliary Flash at both its ends and just below it. -/
theorem met_VectorSlotAddress :
    (3 = 0x1FFF - aivtDevice.bslim.toNat ∧ aivtDevice.hasAivt = true ∧ aivtDevice.aivtCfg = true ∧ aivtDevice.auxFlash = none) ∧
    ({ State.resetOn aivtDevice with intcon2 := 0x8100#16 } : State).useAivt = true ∧
    (State.resetOn aivtDevice).useAivt = false ∧ aivtDevice.aivtDmacSlot = false ∧
    ({ State.resetOn auxDevice with pc := 0x7FC000#24 } : State).inAuxFlash.isSome = true ∧
    ({ State.resetOn auxDevice with pc := 0x7FFFFE#24 } : State).inAuxFlash.isSome = true ∧
    ({ State.resetOn auxDevice with pc := 0x7FBFFE#24 } : State).inAuxFlash = none := by decide

theorem met_VectorSlotsAreUnique : State.reset.inAuxFlash = none ∧ (Source.irq 245).vector < 254 ∧
    vectorSlot (.irq 245) State.reset = some 0x0001FE#24 := by decide

/-- Every source but the DMAC error trap has a slot. -/
theorem slot_of_ne {x : Source} (h : x ≠ .trap .dmac) (s : State) : SlotExists x s := fun e => absurd e h

/-- The highest frame of the implemented data space; a source without a slot of its own in the AIVT. -/
theorem met_EntryStacksTheFrame : StackWritable { State.reset with w15 := 0x1FFC#16 } ∧
    SlotExists (.irq 3) { State.reset with w15 := 0x1FFC#16 } ∧
    SlotExists (.trap .dmac) State.reset ∧
    SlotExists (.trap .dmac) (State.resetOn { aivtDevice with aivtDmacSlot := true }) :=
  ⟨⟨by decide, by decide, by decide⟩, slot_of_ne (by decide) _, (fun _ _ h => absurd h (by decide)), (fun _ _ _ => rfl)⟩

theorem met_EntryWithAnOddStackPointer : ({ State.reset with w15 := 0x1001#16 } : State).w15.getLsbD 0 = true ∧
    SlotExists (.trap .address) { State.reset with w15 := 0x1001#16 } :=
  ⟨by decide, slot_of_ne (by decide) _⟩

theorem met_EntryRaisesThePriority : SlotExists (.irq 245) State.reset ∧ SlotExists (.trap .oscillator) State.reset :=
  ⟨slot_of_ne (by decide) _, slot_of_ne (by decide) _⟩

/-- E6 and E7: STKERR from the floor and from SPLIM, at their boundaries and at the wrap; ADDRERR from an odd W15 and
from the first word that is not implemented. -/
theorem met_EntryKeepsTheRest : (∃ t, takeException (.trap .math) State.reset = .next t) ∧
    (pushesViolate { State.reset with w15 := 0x0FFE#16 } = true ∧ pushesViolate State.reset = false) ∧
    (pushesViolate { State.reset with splim := 0x1001#16, splimEnabled := true } = true ∧
      pushesViolate { State.reset with splim := 0x1002#16, splimEnabled := true } = false) ∧
    (pushesViolate { State.reset with w15 := 0xFFFC#16 } = true ∧
      pushesViolate { State.reset with w15 := 0xFFFA#16 } = false) ∧
    (pushesFault { State.reset with w15 := 0x1001#16 } = true ∧ pushesFault { State.reset with w15 := 0x1FFE#16 } = true ∧
      pushesFault { State.reset with w15 := 0x1FFC#16 } = false) := by
  refine ⟨⟨_, rfl⟩, ?_⟩
  decide

theorem met_EntryLatchesTheInterrupt : 245 < 256 := by decide

theorem met_EntryLoadsTheVector : vectorSlot (.irq 245) (running 0x000202#24 [(0x1FE, 0x000301#24)]) = some 0x0001FE#24 ∧
    (running 0x000202#24 [(0x1FE, 0x000301#24)]).progImpl 0x0001FE#24 = true := by decide

theorem met_EntrySelectsTheRegisterSet :
    ctxLevel (Device.ctxt1 (State.resetOn aivtDevice).dev) = some ((State.resetOn aivtDevice).level 3 |>.setWidth 4) ∧
    ctxLevel (Device.ctxt2 (State.resetOn aivtDevice).dev) ≠ some ((State.resetOn aivtDevice).level 3 |>.setWidth 4) ∧
    ctxLevel (Device.ctxt2 aivtDevice) =
      some ((withIrq 94 6#3 (State.resetOn aivtDevice)).level 94 |>.setWidth 4) ∧
    (State.resetOn aivtDevice).dev.hasAltW = true ∧ (State.resetOn aivtDevice).nstdis = false ∧
    (State.resetOn plainDevice).dev.hasAltW = false := by decide

theorem met_SameLevelDoesNotPreempt : ∃ t, takeException (.irq 3) (withIrq 9 5#3 State.reset) = .next t ∧
    eligibleIrq t 9 = true := ⟨_, rfl, by decide⟩

theorem met_RetfieUndoesTheEntry : StackWritable { State.reset with pc := 0x7FFFFE#24 } ∧
    SlotExists (.irq 3) { State.reset with pc := 0x7FFFFE#24 } ∧ (0x7FFFFE#24).getLsbD 0 = false ∧
    (0x7FFFFE#24).getLsbD 23 = false :=
  ⟨⟨by decide, by decide, by decide⟩, slot_of_ne (by decide) _, by decide, by decide⟩

/-- An entry while `DISI` counts, with VAR = 0; and VAR = 1. -/
theorem met_CyclesCountDownDisicnt :
    (∃ t, takeException (.irq 5) { State.reset with disicnt := 20#14, disiActive := true } = .next t) ∧
    State.reset.var = false ∧ ({ State.reset with corcon := 0x8020#16 } : State).var = true :=
  ⟨⟨_, rfl⟩, by decide, by decide⟩

/-- The premises of the statement, with this winner. -/
def presented (x : Source) (s : State) : Bool :=
  decide (hardOutcome s.atBoundary = .none) && decide (s.atBoundary.power = .run) &&
    decide (winner s.atBoundary = some x)

/-- A hard winner; an interrupt at the last skid, and before it. -/
theorem met_AcknowledgeOrOneMoreInstruction :
    (presented (.trap .genericHard) { State.reset with intcon4 := 1#16 } = true ∧
      (Source.trap .genericHard).hard = true) ∧
    (presented (.irq 5) { withIrq 5 4#3 State.reset with skid := 2 } = true ∧ State.reset.dev.skidMax ≤ 2) ∧
    (presented (.irq 5) { withIrq 5 4#3 State.reset with skid := 1 } = true ∧ (Source.irq 5).hard = false ∧
      1 < State.reset.dev.skidMax) := by decide

/-- A hard trap event in a state of this CPU level (H1, H3, H7, H8). -/
def hardEvent (sr corcon : Word) : State :=
  { State.reset with sr := sr, corcon := corcon, hardHold := true, hardEvents := { HardEvents.none with addr := true } }

/-- H8: at level 12 the address error trap is taken; the stack can be written.  The same from Sleep. -/
theorem met_HardTrapIsTakenAtOnce : (hardEvent 0x0080#16 0x0028#16).atBoundary.hardHold = true ∧
    HardEvents.traps (hardEvent 0x0080#16 0x0028#16).atBoundary.hardEvents = [.address] ∧
    (hardEvent 0x0080#16 0x0028#16).atBoundary.cpl.toNat <
      (Trap.address.level (hardEvent 0x0080#16 0x0028#16).dev).toNat ∧
    StackWritable (hardEvent 0x0080#16 0x0028#16).atBoundary ∧
    (({ hardEvent 0x0080#16 0x0028#16 with power := .sleep } : State).atBoundary.power = .sleep ∧
      ({ hardEvent 0x0080#16 0x0028#16 with power := .sleep } : State).atBoundary.hardHold = true ∧
      HardEvents.traps ({ hardEvent 0x0080#16 0x0028#16 with power := .sleep } : State).atBoundary.hardEvents =
        [.address]) :=
  ⟨by decide, by decide, by decide, ⟨by decide, by decide, by decide⟩, by decide, by decide, by decide⟩

/-- H2, H3 and H7. -/
theorem met_HardTrapConflictResets :
    (({ hardEvent 0#16 0x0020#16 with hardEvents := { osc := true, addr := true, gen := false } } : State
        ).atBoundary.hardHold = true ∧
      HardEvents.traps ({ hardEvent 0#16 0x0020#16 with hardEvents := { osc := true, addr := true, gen := false } } : State
        ).atBoundary.hardEvents = [.oscillator, .address]) ∧
    (Trap.address ∈ HardEvents.traps (hardEvent 0x00E0#16 0x0028#16).atBoundary.hardEvents ∧
      (Trap.address.level State.reset.dev).toNat < (hardEvent 0x00E0#16 0x0028#16).atBoundary.cpl.toNat ∧
      (hardEvent 0x00E0#16 0x0028#16).atBoundary.hardHold = true) ∧
    (HardEvents.traps (hardEvent 0x00C0#16 0x0028#16).atBoundary.hardEvents = [.address] ∧
      Trap.address.level State.reset.dev = (hardEvent 0x00C0#16 0x0028#16).atBoundary.cpl) := by decide

/-- W3 and W1; and an eligible trap in Idle. -/
theorem met_WakeUpCondition : hardOutcome ({ onlyFive 1#3 with power := .sleep } : State).atBoundary = .none ∧
    ({ onlyFive 1#3 with power := .sleep } : State).atBoundary.power ≠ .run ∧
    (∀ t, eligibleTrap ({ onlyFive 1#3 with power := .sleep } : State).atBoundary t = false) ∧
    (({ onlyFive 1#3 with power := .sleep } : State).atBoundary.req 5 = true ∧
      ({ onlyFive 1#3 with power := .sleep } : State).atBoundary.level 5 ≠ 0#3) ∧
    (∀ k, ({ onlyFive 0#3 with power := .idle } : State).atBoundary.req k = true →
      ({ onlyFive 0#3 with power := .idle } : State).atBoundary.level k = 0#3) ∧
    (eligibleTrap ({ State.reset with power := .idle, intcon1 := 0x0010#16 } : State).atBoundary .math = true ∧
      hardOutcome ({ State.reset with power := .idle, intcon1 := 0x0010#16 } : State).atBoundary = .none ∧
      ({ State.reset with power := .idle, intcon1 := 0x0010#16 } : State).atBoundary.power ≠ .run) := by
  refine ⟨by decide, by decide, fun t => by cases t <;> decide, by decide, fun k hk => ?_, by decide⟩
  by_cases h : k = 5
  · rw [h]; decide
  · have : (onlyFive 0#3).req k = true := hk
    rw [onlyFive_req 0#3 k h] at this
    cases this

end Sys2Proof.Tests
end

section
/-!
SUPPORT. Bit facts for the registers: unimplemented bits (R26, D24), the software write bit by bit (R26), the masks of
the device's implemented bits, and the banks of interrupt flags, enables and levels (R35 to R37, D6).
-/

namespace Sys2Proof.Machine

/-! ## Implemented bits -/

section
variable {w w' m m' : Word}

/-- A word within a mask, bit by bit. -/
theorem withinMask_iff : WithinMask w m ↔ ∀ i, w.getLsbD i = true → m.getLsbD i = true := by
  constructor
  · intro h i hi
    have hb := congrArg (fun x : Word => x.getLsbD i) h
    simpa [hi, BitVec.lt_of_getLsbD hi] using hb
  · intro h
    refine BitVec.eq_of_getLsbD_eq fun i hi => ?_
    simpa [hi] using h i

theorem withinMask_zero : WithinMask 0#16 m := BitVec.zero_and

theorem withinMask_or (h : WithinMask w m) (h' : WithinMask w' m) : WithinMask (w ||| w') m := by
  rw [withinMask_iff] at *
  intro i hi
  rw [BitVec.getLsbD_or, Bool.or_eq_true] at hi
  exact hi.elim (h i) (h' i)

theorem withinMask_and_left (h : WithinMask w m) : WithinMask (w &&& w') m := by
  rw [withinMask_iff] at *
  intro i hi
  rw [BitVec.getLsbD_and, Bool.and_eq_true] at hi
  exact h i hi.1

theorem withinMask_and_self : WithinMask (w &&& m) m := by
  rw [withinMask_iff]
  intro i hi
  rw [BitVec.getLsbD_and, Bool.and_eq_true] at hi
  exact hi.2

theorem withinMask_ite {b : Bool} (h : WithinMask w m) (h' : WithinMask w' m) :
    WithinMask (if b then w else w') m := by
  cases b
  · exact h'
  · exact h

theorem withinMask_setBits {b : Bool} (h : WithinMask w m) (h' : WithinMask w' m) :
    WithinMask (setBits w w' b) m :=
  withinMask_ite (withinMask_or h h') (withinMask_and_left h)

end

/-! ## The software write, bit by bit -/

/-- A software write: a named writable bit takes the written value, a named clearable bit is kept only where 1 is
written, every other bit keeps its value (R26). -/
theorem getLsbD_filteredWrite (writable clearable mask v old : Word) (i : Nat) :
    (filteredWrite writable clearable mask v old).getLsbD i =
      if mask.getLsbD i = true ∧ writable.getLsbD i = true then v.getLsbD i
      else if mask.getLsbD i = true ∧ clearable.getLsbD i = true then old.getLsbD i && v.getLsbD i
      else old.getLsbD i := by
  by_cases hi : i < 16
  · simp only [filteredWrite, BitVec.getLsbD_and, BitVec.getLsbD_or, BitVec.getLsbD_not, hi, decide_true,
      Bool.true_and]
    cases mask.getLsbD i <;> cases writable.getLsbD i <;> cases clearable.getLsbD i <;> cases v.getLsbD i <;> simp
  · have beyond (x : Word) : x.getLsbD i = false := BitVec.getLsbD_of_ge x i (Nat.le_of_not_lt hi)
    simp [beyond]

/-- The software write of a register without clearable bits (R26). -/
theorem getLsbD_plainWrite (writable mask v old : Word) (i : Nat) :
    (filteredWrite writable 0#16 mask v old).getLsbD i =
      if mask.getLsbD i = true ∧ writable.getLsbD i = true then v.getLsbD i else old.getLsbD i := by
  simp [getLsbD_filteredWrite]

/-- Setting or clearing the bits of a mask, bit by bit. -/
theorem getLsbD_setBits (w m : Word) (b : Bool) (i : Nat) :
    (setBits w m b).getLsbD i = if m.getLsbD i = true then b else w.getLsbD i := by
  by_cases hi : i < 16
  · cases b with
    | true =>
      rw [setBits, if_pos rfl, BitVec.getLsbD_or]
      cases m.getLsbD i <;> simp
    | false =>
      rw [setBits, if_neg Bool.false_ne_true, BitVec.getLsbD_and, BitVec.getLsbD_not]
      cases m.getLsbD i <;> simp [hi, -BitVec.getLsbD_eq_getElem]
  · have beyond (x : Word) : x.getLsbD i = false := BitVec.getLsbD_of_ge x i (Nat.le_of_not_lt hi)
    simp [beyond]

/-- A software write of implemented bits leaves the unimplemented ones alone. -/
theorem withinMask_filteredWrite {writable clearable mask v old m : Word} (hold : WithinMask old m)
    (hw : WithinMask writable m) : WithinMask (filteredWrite writable clearable mask v old) m := by
  rw [withinMask_iff] at *
  intro i
  rw [getLsbD_filteredWrite]
  split
  case isTrue hn => exact fun _ => hw i hn.2
  case isFalse =>
    split
    · intro hi
      rw [Bool.and_eq_true] at hi
      exact hold i hi.1
    · exact hold i

/-! ## The masks of the device -/

/-- The bits below `n` of a mask given by its bits. -/
theorem getLsbD_bitsBelow (p : Nat → Bool) (n : Nat) {i : Nat} (hi : i < 16) :
    (bitsBelow p n).getLsbD i = (decide (i < n) && p i) := by
  induction n with
  | zero => simp [bitsBelow]
  | succ j ih =>
    have single : (if p j then 1#16 <<< j else 0#16).getLsbD i = (decide (i = j) && p i) := by
      by_cases hj : i = j
      · subst hj
        cases p i <;> simp [hi]
      · have : (1#16 <<< j).getLsbD i = false := by
          rw [← BitVec.twoPow_eq, BitVec.getLsbD_twoPow]
          simp [Ne.symm hj]
        cases p j <;> simp [this, hj]
    rw [bitsBelow, BitVec.getLsbD_or, ih, single, ← Bool.and_or_distrib_right, ← Bool.decide_or]
    congr 2
    exact propext Nat.lt_succ_iff_lt_or_eq.symm

/-- A device has at most 246 interrupt vectors (R6). -/
theorem impl_lt {d : Device} {k : Nat} (h : d.impl k = true) : k < 246 := by
  simp only [Device.impl, Bool.and_eq_true, decide_eq_true_eq] at h
  exact h.1.2

/-- Bit j of the mask of IFSx and IECx belongs to vector 16x + j (D6). -/
theorem getLsbD_flagMask (d : Device) (x : Nat) {i : Nat} (hi : i < 16) :
    (d.flagMask x).getLsbD i = d.impl (16 * x + i) := by
  rw [Device.flagMask, getLsbD_bitsBelow _ _ hi, decide_eq_true hi, Bool.true_and]

/-- Bits 2:0 of nibble j of the mask of IPCx belong to vector 4x + j (D6). -/
theorem getLsbD_ipcMask (d : Device) (x : Nat) {i : Nat} (hi : i < 16) :
    (d.ipcMask x).getLsbD i = (d.impl (4 * x + i / 4) && decide (i % 4 < 3)) := by
  rw [Device.ipcMask, getLsbD_bitsBelow _ _ hi, decide_eq_true hi, Bool.true_and]

/-- The implemented bits of INTCON1 (R28, R29; log entry 12). -/
theorem getLsbD_intcon1Impl (d : Device) : ∀ i < 16, (intcon1Impl d).getLsbD i = true ↔
    i = 15 ∨ (6 ≤ i ∧ i ≤ 14 ∧ d.hasDsp = true) ∨ (i = 6 ∧ d.div0errWithoutDsp = true) ∨
      (i = 5 ∧ d.hasDma = true) ∨ (1 ≤ i ∧ i ≤ 4) := by
  unfold intcon1Impl Device.hasDiv0err
  generalize d.hasDsp = dsp, d.div0errWithoutDsp = div0, d.hasDma = dma
  cases dsp <;> cases div0 <;> cases dma <;> decide

/-- The implemented and stored bits of INTCON2 (R30, R31). -/
theorem getLsbD_intcon2Impl (d : Device) {i : Nat} (hi : i < 16) : (intcon2Impl d).getLsbD i = true ↔
    i = 15 ∨ i = 13 ∨ (i = 8 ∧ d.hasAivt = true) ∨ (i < 5 ∧ i < d.nextint) := by
  have fixed : ∀ aivt : Bool, ∀ j < 16,
      (0xA000#16 ||| (if aivt then 0x0100#16 else 0#16)).getLsbD j = true ↔
        j = 15 ∨ j = 13 ∨ (j = 8 ∧ aivt = true) := by decide
  rw [intcon2Impl, BitVec.getLsbD_or, Bool.or_eq_true, fixed _ i hi, getLsbD_bitsBelow _ _ hi]
  simp [or_assoc]

/-- The implemented bits of INTCON3 (R33; log entry 11). -/
theorem getLsbD_intcon3Impl (d : Device) : ∀ i < 16, (intcon3Impl d).getLsbD i = true ↔
    i = 8 ∨ i = 4 ∨ ((i = 6 ∨ i = 1) ∧ d.hasUsb = true) ∨ (i = 5 ∧ d.hasDma = true) ∨
      (i = 0 ∧ d.hasApll = true) := by
  unfold intcon3Impl
  generalize d.hasUsb = usb, d.hasDma = dma, d.hasApll = apll
  revert usb dma apll
  decide

/-- OSCFAIL to MATHERR and NSTDIS are on every device (R28, R29). -/
theorem withinMask_intcon1Impl {w : Word} (d : Device) (h : WithinMask w 0x801E#16) :
    WithinMask w (intcon1Impl d) := by
  rw [withinMask_iff] at *
  intro i hi
  simp [intcon1Impl, h i hi]

/-- GIE and SWTRAP are on every device (R30). -/
theorem withinMask_intcon2Impl {w : Word} (d : Device) (h : WithinMask w 0xA000#16) :
    WithinMask w (intcon2Impl d) := by
  rw [withinMask_iff] at *
  intro i hi
  simp [intcon2Impl, h i hi]

/-! ## Banks of registers -/

/-- Replacing one register of a bank by a word within its mask leaves every register within its mask. -/
theorem withinMask_set {n : Nat} {bank : Vector Word n} {mask : Nat → Word} {w : Word}
    (h : ∀ y : Fin n, WithinMask bank[y] (mask y.val)) (x : Fin n) (hw : WithinMask w (mask x.val)) :
    ∀ y : Fin n, WithinMask (bank.set x.val w)[y] (mask y.val) := by
  intro y
  rw [Fin.getElem_fin, Vector.getElem_set]
  split
  case isTrue hxy => rwa [← hxy]
  case isFalse => exact h y

/-- Bit k of a bank is bit k mod 16 of register k div 16. -/
theorem flagAt_of_lt {n : Nat} (bank : Vector Word n) {k : Nat} (hk : k / 16 < n) :
    flagAt bank k = bank[k / 16].getLsbD (k % 16) := by
  simp [flagAt, hk]

theorem flagAt_of_ge {n : Nat} (bank : Vector Word n) {k : Nat} (hk : n ≤ k / 16) : flagAt bank k = false := by
  simp [flagAt, Nat.not_lt.mpr hk]

/-- Replacing a register of a bank changes the bits of that register and no other. -/
theorem flagAt_set {n : Nat} (bank : Vector Word n) {x : Nat} (hx : x < n) (w : Word) (k : Nat) :
    flagAt (bank.set x w) k = if k / 16 = x then w.getLsbD (k % 16) else flagAt bank k := by
  by_cases hk : k / 16 < n
  · simp only [flagAt_of_lt _ hk, Vector.getElem_set, eq_comm (a := x)]
    split <;> rfl
  · have hge := Nat.le_of_not_lt hk
    rw [flagAt_of_ge _ hge, flagAt_of_ge _ hge, if_neg (by omega)]

/-- A bank of flags or enables keeps its unimplemented bits 0 exactly where only implemented vectors have a bit set. -/
theorem flagMask_bank_iff (d : Device) (bank : Vector Word 16) :
    (∀ x : Fin 16, WithinMask bank[x] (d.flagMask x.val)) ↔ ∀ k, flagAt bank k = true → d.impl k = true := by
  simp only [withinMask_iff]
  constructor
  · intro h k hk
    by_cases hlt : k / 16 < 16
    · rw [flagAt_of_lt _ hlt] at hk
      have hm := h ⟨k / 16, hlt⟩ (k % 16) hk
      rwa [getLsbD_flagMask _ _ (Nat.mod_lt k (by decide)), Nat.div_add_mod] at hm
    · rw [flagAt_of_ge _ (Nat.le_of_not_lt hlt)] at hk
      cases hk
  · intro h x i hi
    have hlt : i < 16 := BitVec.lt_of_getLsbD hi
    have hdiv : (16 * x.val + i) / 16 = x.val := by omega
    have hmod : (16 * x.val + i) % 16 = i := by omega
    rw [getLsbD_flagMask _ _ hlt]
    apply h
    rw [flagAt_of_lt _ (by omega)]
    simpa only [hdiv, hmod, Fin.getElem_fin] using hi

/-- Setting the flag of a vector sets that flag, where the device implements the vector, and no other (R35). -/
theorem flag_setFlag (k j : Nat) (s : State) :
    (setFlag k s).flag j = true ↔ s.flag j = true ∨ (j = k ∧ s.dev.impl k = true) := by
  cases himpl : s.dev.impl k with
  | false => simp [setFlag, State.flag, himpl]
  | true =>
    have hk : k / 16 < 16 := by
      have := impl_lt himpl
      omega
    have hset : (setFlag k s).ifs = s.ifs.set (k / 16) (s.ifs[k / 16] ||| 1#16 <<< (k % 16)) := by
      ext i hi
      simp [setFlag, himpl, hk, Vector.getElem_set, Vector.getElem_setIfInBounds]
    rw [State.flag, hset, flagAt_set _ hk]
    split
    case isTrue hj =>
      have hbit : (1#16 <<< (k % 16)).getLsbD (j % 16) = decide (j = k) := by
        rw [← BitVec.twoPow_eq, BitVec.getLsbD_twoPow]
        have hlt : k % 16 < 16 := Nat.mod_lt k (by decide)
        simp only [hlt, decide_true, Bool.true_and, decide_eq_decide]
        omega
      rw [State.flag, flagAt_of_lt _ (by omega), BitVec.getLsbD_or, hbit]
      simp [hj]
    case isFalse hj =>
      have hne : j ≠ k := fun e => hj (by rw [e])
      simp [State.flag, hne]

end Sys2Proof.Machine
end

section
/-!
SUPPORT. Each operation of the machine keeps the invariant: the trap causes and the software writes of registers, the
data-space and stack operations, the exception process, the instructions, the environment and device Reset.
-/

namespace Sys2Proof.Machine

variable {s : State}

/-! ## Even program addresses (R23) -/

theorem even_and_pcMask (a : ProgAddr) : (a &&& 0x7FFFFE#24).getLsbD 0 = false := by simp

theorem even_add {a b : ProgAddr} (ha : a.getLsbD 0 = false) (hb : b.getLsbD 0 = false) :
    (a + b).getLsbD 0 = false := by
  rw [BitVec.getLsbD_add (by decide), ha, hb, BitVec.carry_zero]
  rfl

theorem even_two_mul (n : Nat) : (BitVec.ofNat 24 (2 * n)).getLsbD 0 = false := by
  rw [BitVec.getLsbD_ofNat]
  simp

theorem even_append_zero (a : BitVec 23) : (a ++ 0#1 : BitVec 24).getLsbD 0 = false := by
  rw [BitVec.getLsbD_append]
  rfl

theorem even_framePc (hi lo : Word) : (framePc hi lo).getLsbD 0 = false := even_append_zero _

theorem even_returnTarget (d : Device) (first second : Word) : (returnTarget d first second).getLsbD 0 = false := by
  unfold returnTarget
  cases d.returnFormat with
  | unstated => exact even_and_pcMask _
  | asFrame => exact even_framePc _ _

theorem even_braTarget {a : ProgAddr} (ha : a.getLsbD 0 = false) (slit16 : BitVec 16) :
    (braTarget a slit16).getLsbD 0 = false :=
  even_add ha (by simp)

/-- The decoder gives a `GOTO` an even target (R114). -/
theorem decode_goto_even {words rest : List ProgWord} {target : ProgAddr}
    (h : decode words = .ok (.goto target, rest)) : target.getLsbD 0 = false := by
  cases words with
  | nil => cases h
  | cons w t =>
    simp only [decode] at h
    split_ifs at h
    any_goals cases h
    split at h
    · cases h
    split_ifs at h
    cases h
    exact even_append_zero _

/-! ## Trap causes -/

theorem inv_raise1 (b : Word) (h : s.Inv) : (raise1 b s).Inv :=
  { h with intcon1Bits := withinMask_or h.intcon1Bits withinMask_and_self }

theorem inv_raise3 (b : Word) (h : s.Inv) : (raise3 b s).Inv :=
  { h with intcon3Bits := withinMask_or h.intcon3Bits withinMask_and_self }

theorem inv_raiseStackIf (b : Bool) (h : s.Inv) : (raiseStackIf b s).Inv := inv_raise1 _ h

theorem inv_hardEventsIf (osc addr gen : Bool) (h : s.Inv) : (hardEventsIf osc addr gen s).Inv :=
  { h with
    holdIffEvent := by
      simp only [hardEventsIf, HardEvents.any, h.holdIffEvent]
      ac_rfl }

theorem inv_raiseAddressIf (b : Bool) (h : s.Inv) : (raiseAddressIf b s).Inv :=
  { h with
    intcon1Bits := withinMask_or h.intcon1Bits
      (withinMask_ite (withinMask_intcon1Impl _ (by decide)) withinMask_zero)
    holdIffEvent := by
      simp only [raiseAddressIf, HardEvents.any, h.holdIffEvent]
      ac_rfl }

theorem inv_raiseOscillator (h : s.Inv) : (raiseOscillator s).Inv :=
  { h with
    intcon1Bits := withinMask_or h.intcon1Bits (withinMask_intcon1Impl _ (by decide))
    holdIffEvent := rfl }

theorem inv_setFlag (k : Nat) (h : s.Inv) : (setFlag k s).Inv :=
  { h with
    flagBits := by
      rw [setFlag_dev, flagMask_bank_iff]
      intro j hj
      rcases (flag_setFlag k j s).mp hj with hold | ⟨rfl, himpl⟩
      · exact (flagMask_bank_iff _ _).mp h.flagBits j hold
      · exact himpl }

/-! ## Software writes of registers (R26) -/

theorem inv_writeIntcon1 (mask v : Word) (h : s.Inv) : (writeIntcon1 mask v s).Inv := by
  have plain := withinMask_filteredWrite (clearable := 0#16) (mask := mask) (v := v) h.intcon1Bits
    (BitVec.and_not_self _)
  exact inv_hardEventsIf _ _ _
    { h with
      intcon1Bits := withinMask_ite
        (withinMask_setBits plain (withinMask_intcon1Impl _ (by decide))) plain }

theorem inv_writeIntcon2 (mask v : Word) (h : s.Inv) : (writeIntcon2 mask v s).Inv :=
  inv_hardEventsIf _ _ _
    { h with
      intcon2Bits := withinMask_filteredWrite h.intcon2Bits (BitVec.and_not_self _)
      intcon4Bits := withinMask_or h.intcon4Bits (withinMask_ite (by decide) withinMask_zero) }

theorem inv_writeIntcon4 (mask v : Word) (h : s.Inv) : (writeIntcon4 mask v s).Inv := by
  have plain := withinMask_filteredWrite (writable := 0x0001#16) (clearable := 0#16) (mask := mask) (v := v)
    h.intcon4Bits (by decide)
  exact inv_hardEventsIf _ _ _
    { h with intcon4Bits := withinMask_ite (withinMask_setBits plain (by decide)) plain }

theorem inv_writeDisicnt (mask v : Word) (h : s.Inv) : (writeDisicnt mask v s).Inv :=
  { h with
    disiArmed := by
      simp only [writeDisicnt, Bool.and_eq_true, decide_eq_true_eq]
      rintro ⟨hlive, hn⟩
      simpa [hlive] using hn }

/-- Every software write keeps the invariant: it writes implemented bits only (R26). -/
theorem inv_swWrite (r : Sfr) (mask v : Word) (h : s.Inv) : (swWrite r mask v s).Inv := by
  cases r with
  | sr => exact { h with }
  | corcon => exact { h with corconBits := withinMask_filteredWrite h.corconBits (by decide) }
  | intcon1 => exact inv_writeIntcon1 mask v h
  | intcon2 => exact inv_writeIntcon2 mask v h
  | intcon3 => exact { h with intcon3Bits := withinMask_filteredWrite h.intcon3Bits (BitVec.and_not_self _) }
  | intcon4 => exact inv_writeIntcon4 mask v h
  | ifs x =>
    exact { h with
      flagBits := withinMask_set (mask := s.dev.flagMask) h.flagBits x
        (withinMask_filteredWrite (h.flagBits x) (BitVec.and_not_self _)) }
  | iec x =>
    exact { h with
      enableBits := withinMask_set (mask := s.dev.flagMask) h.enableBits x
        (withinMask_filteredWrite (h.enableBits x) (BitVec.and_not_self _)) }
  | ipc x =>
    exact { h with
      levelBits := withinMask_set (mask := s.dev.ipcMask) h.levelBits x
        (withinMask_filteredWrite (h.levelBits x) (BitVec.and_not_self _)) }
  | inttreg => exact h
  | faltreg => exact h
  | disicnt => exact inv_writeDisicnt mask v h
  | splim => exact { h with }
  | rcon => exact { h with }

/-! ## Data space and the stack -/

theorem inv_cpuStoreByteIf (b : Bool) (a : Word) (v : Byte) (h : s.Inv) : (cpuStoreByteIf b a v s).Inv :=
  { h with
    dataCanonical := by
      cases b
      · exact h.dataCanonical
      · exact wf_storeByte _ _ _ h.dataCanonical }

theorem inv_cpuStoreWordIf (b : Bool) (a v : Word) (h : s.Inv) : (cpuStoreWordIf b a v s).Inv :=
  { h with
    dataCanonical := by
      cases b
      · exact h.dataCanonical
      · exact wf_storeWord _ _ _ h.dataCanonical }

theorem inv_setSp (v : Word) (h : s.Inv) : (setSp v s).Inv := inv_raiseStackIf (s := { s with w15 := v }) _ { h with }

theorem inv_push16 (v : Word) (h : s.Inv) : (push16 v s).Inv :=
  inv_setSp _ (inv_cpuStoreWordIf _ _ _ (inv_raiseAddressIf _ (inv_raiseStackIf _ h)))

/-- Values drawn are counted without further effect (R10). -/
theorem inv_draws (n : Nat) (h : s.Inv) : ({ s with draws := n } : State).Inv := { h with }

theorem inv_popState (h : s.Inv) : (popState s).Inv :=
  inv_setSp _ (inv_raiseAddressIf _ (inv_draws _ (inv_raiseStackIf _ h)))

/-- The frame's pushes keep the invariant, with the data space of before where one of them faults (R100). -/
theorem inv_pushFrame (h : s.Inv) : (pushFrame s).Inv := by
  have pushed := inv_push16 (frameHigh s) (inv_push16 (frameLow s) h)
  exact { pushed with
    dataCanonical := by
      simp only [pushFrame]
      split
      · exact h.dataCanonical
      · exact pushed.dataCanonical }

/-! ## The exception process (R225) -/

theorem inv_writeLevel (x : Source) (l : BitVec 4) (h : s.Inv) : (writeLevel x l s).Inv := by
  cases x with
  | trap t => exact { h with corconBits := withinMask_or (withinMask_and_left h.corconBits) (by decide) }
  | irq k => exact { h with corconBits := withinMask_and_left h.corconBits }

/-- VECNUM and ILR are the implemented bits of INTTREG (R38). -/
theorem withinMask_latched (l : BitVec 4) (vecnum : BitVec 8) :
    WithinMask (0#4 ++ l ++ vecnum : BitVec 16) 0x0FFF#16 := by
  have low : ∀ i < 12, (0x0FFF#16).getLsbD i = true := by decide
  rw [withinMask_iff]
  intro i hi
  refine low i (Nat.lt_of_not_le fun hge => ?_)
  rw [BitVec.getLsbD_append, if_neg (by omega), BitVec.getLsbD_append, if_neg (by omega), BitVec.getLsbD_zero] at hi
  cases hi

theorem inv_latchInttreg (x : Source) (l : BitVec 4) (h : s.Inv) : (latchInttreg x l s).Inv := by
  cases x with
  | trap t => exact { h with inttregBits := withinMask_and_self }
  | irq k => exact { h with inttregBits := withinMask_latched l _ }

theorem inv_useSet (choice : Option WSet) (h : s.Inv) : (useSet choice s).Inv :=
  { h with
    defaultSet := by
      intro hno
      rw [useSet_dev] at hno
      simp [useSet, hno] }

theorem inv_loadVector (slot : ProgAddr) (h : s.Inv) : (loadVector slot s).Inv :=
  { h with pcEven := even_and_pcMask _ }

theorem inv_enter (x : Source) (slot : ProgAddr) (h : s.Inv) : (enter x slot s).Inv := by
  have cleared : ({ s with hardEvents := .none, hardHold := false } : State).Inv := { h with holdIffEvent := rfl }
  have loaded := inv_loadVector slot (inv_useSet (entrySet x (s.sourceLevel x) s)
    (inv_latchInttreg x (s.sourceLevel x) (inv_writeLevel x (s.sourceLevel x) (inv_pushFrame cleared))))
  exact { loaded with skidBound := Nat.zero_le _ }

theorem inv_tick (n : Nat) (h : s.Inv) : (tick n s).Inv := { h with disiArmed := tick_armed n s }

theorem inv_tickEntry (stalls : Nat) (h : s.Inv) : (tickEntry stalls s).Inv := inv_draws _ (inv_tick _ h)

theorem inv_wake (h : s.Inv) : (wake s).Inv :=
  { h with
    disiArmed := by
      simp only [wake, Bool.and_eq_true, decide_eq_true_eq]
      exact fun ha => ha.2 }

/-! ## Device Reset (R60, R290) -/

/-- The state after Reset meets the invariant on every device. -/
theorem inv_resetOn (d : Device) : (State.resetOn d).Inv where
  dataCanonical := rfl
  progCanonical := rfl
  pcEven := by
    cases haux : d.auxFlash with
    | none => simp [State.resetOn, haux]
    | some f => simp [State.resetOn, haux]
  holdIffEvent := rfl
  disiArmed := by intro h; cases h
  skidBound := Nat.zero_le _
  defaultSet _ := rfl
  corconBits := (by decide : WithinMask 0x0020#16 0xBFFF#16)
  intcon1Bits := withinMask_zero
  intcon2Bits := withinMask_intcon2Impl d (by decide : WithinMask 0x8000#16 0xA000#16)
  intcon3Bits := withinMask_zero
  intcon4Bits := withinMask_zero
  inttregBits := withinMask_zero
  flagBits x := by
    simp only [State.resetOn, Fin.getElem_fin, Vector.getElem_replicate]
    exact withinMask_zero
  enableBits x := by
    simp only [State.resetOn, Fin.getElem_fin, Vector.getElem_replicate]
    exact withinMask_zero
  levelBits x := by
    simp only [State.resetOn, Fin.getElem_fin, Vector.getElem_ofFn]
    exact withinMask_and_self

theorem inv_deviceReset (cause : ResetCause) (h : s.Inv) : (deviceReset cause s).Inv :=
  { inv_resetOn s.dev with
    dataCanonical := wf_memOfBytes _
    progCanonical := h.progCanonical }

/-! ## The environment (R160) -/

theorem inv_dmaWrite (a : Word) (v : Byte) (coincident : Bool) (h : s.Inv) : (dmaWrite a v coincident s).Inv := by
  unfold dmaWrite
  split_ifs
  · exact inv_raise3 _ h
  · exact inv_raise1 _ h
  · exact { h with dataCanonical := wf_storeByte _ _ _ h.dataCanonical }

theorem inv_usbWrite (a : Word) (v : Byte) (h : s.Inv) : (usbWrite a v s).Inv := by
  unfold usbWrite
  split_ifs
  · exact inv_raise3 _ h
  · exact { h with dataCanonical := wf_storeByte _ _ _ h.dataCanonical }

/-- What both outcomes of a test keep, the choice keeps. -/
theorem inv_ite {b : Prop} [Decidable b] {t : State} (hs : s.Inv) (ht : t.Inv) : (if b then s else t).Inv := by
  split
  · exact hs
  · exact ht

theorem inv_act (a : EnvAction) (h : s.Inv) : (act a s).Inv := by
  cases a with
  | irq k => exact inv_setFlag k h
  | oscFail => exact inv_raiseOscillator h
  | clockFail v => exact { h with }
  | usbPllLoss => exact inv_raise3 _ h
  | auxPllLoss => exact inv_raise3 _ h
  | nvmAddressError => exact inv_raise3 _ h
  | dmaRead a => exact inv_ite (inv_raise3 _ h) h
  | dmaWrite a v coincident => exact inv_ite (inv_dmaWrite a v coincident h) h
  | usbRead a => exact inv_ite (inv_raise3 _ h) h
  | usbWrite a v => exact inv_ite (inv_usbWrite a v h) h
  | usbBdt start => exact inv_ite (inv_raise3 _ h) h
  | reset => exact inv_deviceReset _ h

theorem inv_samplePin (levels : BitVec 5) (i : Nat) (h : s.Inv) : (samplePin levels i s).Inv := by
  unfold samplePin
  refine inv_ite ?_ h
  cases s.dev.extIrq[i]? with
  | some k => exact inv_setFlag k h
  | none => exact h

theorem inv_pinprev (levels : BitVec 5) (h : s.Inv) : ({ s with pinprev := levels } : State).Inv := { h with }

theorem inv_samplePins (levels : BitVec 5) (h : s.Inv) : (samplePins levels s).Inv := by
  have sampled := inv_samplePin levels 4 (inv_samplePin levels 3 (inv_samplePin levels 2
    (inv_samplePin levels 1 (inv_samplePin levels 0 h))))
  exact inv_pinprev levels sampled

/-! ## Instructions outside the opcode table (N21) -/

theorem inv_pc {a : ProgAddr} (ha : a.getLsbD 0 = false) (h : s.Inv) : ({ s with pc := a } : State).Inv :=
  { h with pcEven := ha }

theorem inv_accessStore (inhibited : Bool) (a : DataAccess) (h : s.Inv) : (accessStore inhibited a s).Inv :=
  inv_ite (inv_cpuStoreWordIf _ _ _ h) (inv_cpuStoreByteIf _ _ _ h)

theorem inv_accessCheck (a : DataAccess) (h : s.Inv) : (accessCheck a s).Inv := by
  unfold accessCheck
  cases a.viaW15 with
  | some wraps => exact inv_raiseStackIf _ h
  | none => exact h

theorem withinMask_withDl {w : Word} (h : WithinMask w 0xBFFF#16) (level : BitVec 3) :
    WithinMask (withDl w level) 0xBFFF#16 := by
  refine withinMask_or (withinMask_and_left h) ?_
  revert level
  decide

theorem inv_doLoop (h : s.Inv) : (doLoop s).Inv := by
  refine inv_raise3 _ { h with corconBits := ?_ }
  split
  · exact h.corconBits
  · exact withinMask_withDl h.corconBits _

theorem inv_doEnd (h : s.Inv) : (doEnd s).Inv := by
  refine { h with corconBits := ?_ }
  simp only [doEnd]
  split
  · exact h.corconBits
  · exact withinMask_withDl h.corconBits _

theorem inv_writeStatus (mask v : Word) (h : s.Inv) : (writeStatus mask v s).Inv := { h with }

/-- SFA is an implemented bit of CORCON (R27). -/
theorem inv_stackFrame (active : Bool) (h : s.Inv) :
    ({ s with corcon := setBits s.corcon 0x0004#16 active } : State).Inv :=
  { h with corconBits := withinMask_setBits h.corconBits (by decide) }

theorem inv_applyEffect (inhibited : Bool) (e : CpuEffect) (h : s.Inv) : (applyEffect inhibited e s).Inv := by
  cases e with
  | sfrWrite r mask v => exact inv_ite h (inv_swWrite r mask v h)
  | w15Write v => exact inv_ite { h with } { h with }
  | access a => exact inv_accessStore _ _ (inv_raiseAddressIf _ (inv_accessCheck a h))
  | paged page => exact inv_raiseAddressIf _ h
  | macFetch y ea => exact inv_raiseAddressIf _ h
  | divide divisor => exact inv_raise1 _ h
  | sftac count => exact inv_raise1 _ h
  | doLoop => exact inv_doLoop h
  | doEnd => exact inv_doEnd h
  | acc e => exact inv_raise1 _ h
  | status mask v => exact inv_ite (inv_writeStatus _ _ (inv_draws _ h)) (inv_writeStatus _ _ h)
  | stackFrame active => exact inv_ite (inv_draws _ (inv_stackFrame _ h)) (inv_stackFrame _ h)

theorem inv_applyEffects (inhibited : Bool) (effects : List CpuEffect) (h : s.Inv) :
    (applyEffects inhibited effects s).Inv := by
  induction effects generalizing s with
  | nil => exact h
  | cons e t ih => exact ih (inv_applyEffect inhibited e h)

theorem inv_transfer (target : Option ProgAddr) (h : s.Inv) : (transfer target s).Inv := by
  cases target with
  | none => exact h
  | some a => exact inv_pc (even_and_pcMask a) h

theorem inv_beginInstr (words : Nat) (h : s.Inv) : (beginInstr words s).Inv :=
  { h with pcEven := even_add h.pcEven (even_two_mul words) }

theorem inv_runForeign (stalls : Nat) (f : Foreign) (h : s.Inv) : (runForeign stalls f s).Inv :=
  inv_tick _ (inv_transfer _ (inv_raiseStackIf _ (inv_applyEffects _ _ (inv_beginInstr _ h))))

/-! ## The instructions of the opcode table -/

theorem inv_jumpTo {target : ProgAddr} (ht : target.getLsbD 0 = false) (h : s.Inv) : (jumpTo target s).Inv :=
  inv_raiseAddressIf _ (inv_pc ht h)

theorem inv_returnFromCall (h : s.Inv) : (returnFromCall s).Inv := by
  have popped := inv_popState (inv_popState h)
  exact inv_pc (even_returnTarget _ _ _) (inv_setSp _ (inv_draws _ popped))

theorem inv_restoreStatus (hi lo : Word) (h : s.Inv) : (restoreStatus hi lo s).Inv :=
  { h with
    corconBits := withinMask_setBits (withinMask_setBits h.corconBits (by decide)) (by decide) }

theorem inv_returnFromException (h : s.Inv) : (returnFromException s).Inv := by
  have popped := inv_popState (inv_popState h)
  exact inv_pc (even_framePc _ _) (inv_useSet _ (inv_restoreStatus _ _ (inv_setSp _ (inv_draws _ popped))))

/-- What an instruction of the table leaves meets the invariant, where a `GOTO` has an even target. -/
theorem inv_exec {i : Instr} {t : State} (hgoto : ∀ target, i = .goto target → target.getLsbD 0 = false)
    (h : s.Inv) (hexec : exec i s = .next t) : t.Inv := by
  cases i with
  | nop => cases hexec; exact h
  | goto target => cases hexec; exact inv_jumpTo (hgoto target rfl) h
  | ret => cases hexec; exact inv_returnFromCall h
  | retfie => cases hexec; exact inv_returnFromException h
  | bra slit16 => cases hexec; exact inv_jumpTo (even_braTarget h.pcEven slit16) h
  | disi lit14 => cases hexec; exact { h with disiArmed := of_decide_eq_true }
  | reset => cases hexec; exact inv_deviceReset _ h
  | pwrsav mode => cases hexec; exact { h with }

theorem inv_tickInstr (i : Instr) (n : Nat) (h : s.Inv) : (tickInstr i n s).Inv := by
  cases i with
  | disi lit14 => exact { h with }
  | _ => exact inv_tick n h

theorem inv_runInstr {stalls : Nat} {i : Instr} {t : State}
    (hgoto : ∀ target, i = .goto target → target.getLsbD 0 = false) (h : s.Inv)
    (hrun : runInstr stalls i s = .next t) : t.Inv := by
  obtain ⟨u, hexec, rfl⟩ := runInstr_next hrun
  exact inv_tickInstr _ _ (inv_exec hgoto (inv_beginInstr _ h) hexec)

end Sys2Proof.Machine
end

section
/-!
SUPPORT. The one induction over the parts of a step (R161): what every part keeps, every step keeps.  CERTIFICATES: the
invariant, and the constancy of the device and of program memory.
-/

namespace Sys2Proof.Machine

/-! ## What every part of a step keeps -/

/-- Every part of a step keeps `P`: the environment's actions and the sample of the pins, the settling of the CPU's
writes, the wake-up, the choice of R224 with its count, the exception process, the execution of an instruction inside or
outside the table, the trap of a bad fetch, the count of an entry's cycles, and device Reset. -/
structure KeptByParts (P : State → Prop) : Prop where
  act : ∀ a s, P s → P (act a s)
  samplePins : ∀ levels s, P s → P (samplePins levels s)
  settle : ∀ s, P s → P { s with cpuWrites := [] }
  wake : ∀ s, P s → P (wake s)
  draw : ∀ n s, P s → P { s with draws := n }
  skid : ∀ n s, n ≤ s.dev.skidMax → P s → P { s with skid := n }
  enter : ∀ x slot s, P s → P (enter x slot s)
  tickEntry : ∀ stalls s, P s → P (tickEntry stalls s)
  badFetch : ∀ s, P s → P (raiseAddressIf true s)
  runInstr : ∀ {stalls i words rest s t}, decode words = .ok (i, rest) → P s → runInstr stalls i s = .next t → P t
  runForeign : ∀ stalls f s, P s → P (runForeign stalls f s)
  deviceReset : ∀ cause s, P s → P (deviceReset cause s)

namespace KeptByParts

variable {P : State → Prop} {s t : State} (keeps : KeptByParts P)
include keeps

theorem of_acknowledge {stalls : Nat} {x : Source} (h : P s) (hack : acknowledge stalls x s = .next t) : P t := by
  obtain ⟨u, htake, rfl⟩ := acknowledge_next hack
  rcases takeException_cases x s with ⟨slot, -, heq⟩ | ⟨-, heq⟩ <;> rw [heq] at htake <;> cases htake
  exact keeps.tickEntry _ _ (keeps.enter x slot s h)

theorem of_fetchAndRun {b : Boundary} (h : P s) (hrun : fetchAndRun b s = .next t) : P t := by
  rcases fetchAndRun_cases b s with ⟨-, i, rest, hdecode, heq⟩ |
    ⟨-, e, -, ⟨f, -, heq⟩ | ⟨-, w, heq⟩⟩ | ⟨-, heq⟩ <;> rw [heq] at hrun
  · exact keeps.runInstr hdecode h hrun
  · cases hrun
    exact keeps.runForeign _ f s h
  · cases hrun
  · cases hrun
    exact keeps.badFetch s h

theorem of_arbitrate {b : Boundary} (h : P s) (harb : arbitrate b s = .next t) : P t := by
  rcases arbitrate_cases b s with ⟨-, heq⟩ | ⟨x, -, ⟨-, heq⟩ | ⟨⟨-, hlt⟩, heq | heq⟩⟩ <;> rw [heq] at harb
  · exact keeps.of_fetchAndRun (keeps.skid 0 s (Nat.zero_le _) h) harb
  · exact keeps.of_acknowledge h harb
  · exact keeps.of_acknowledge (keeps.draw _ s h) harb
  · exact keeps.of_fetchAndRun (keeps.draw _ _ (keeps.skid (s.skid + 1) s hlt h)) harb

theorem of_powered {b : Boundary} (h : P s) (hpow : powered b s = .next t) : P t := by
  rcases powered_cases b s with ⟨-, heq⟩ | ⟨-, -, heq⟩ | ⟨-, -, heq⟩ <;> rw [heq] at hpow
  · exact keeps.of_arbitrate h hpow
  · exact keeps.of_arbitrate (keeps.wake s h) hpow
  · cases hpow
    exact h

theorem of_wakeIfAsleep (h : P s) : P (wakeIfAsleep s) := by
  unfold wakeIfAsleep
  split
  · exact h
  · exact keeps.wake s h

theorem of_resolveHard {b : Boundary} (h : P s) (hres : resolveHard b s = .next t) : P t := by
  rcases resolveHard_cases b s with ⟨-, heq⟩ | ⟨x, -, heq⟩ | ⟨-, heq⟩ | ⟨-, heq⟩ <;> rw [heq] at hres
  · exact keeps.of_powered h hres
  · exact keeps.of_acknowledge (keeps.of_wakeIfAsleep h) hres
  · cases hres
    exact keeps.deviceReset _ s h
  · cases hres

/-- What every part of a step keeps holds after a step, if it holds once the inputs of the boundary are taken. -/
theorem of_step (h : P { s with inputs := s.inputs.tail }) (hstep : step s = .next t) : P t :=
  keeps.of_resolveHard
    (keeps.settle _ (environment_keeps (fun a _ => keeps.act a) keeps.samplePins _ h)) hstep

end KeptByParts

/-! ## The invariant -/

theorem inv_keptByParts : KeptByParts State.Inv where
  act a _ := inv_act a
  samplePins levels _ := inv_samplePins levels
  settle _ h := { h with }
  wake _ := inv_wake
  draw n _ := inv_draws n
  skid _ _ hn h := { h with skidBound := hn }
  enter x slot _ := inv_enter x slot
  tickEntry stalls _ := inv_tickEntry stalls
  badFetch _ := inv_raiseAddressIf true
  runInstr hdecode := inv_runInstr fun _ hi => decode_goto_even (hi ▸ hdecode)
  runForeign stalls f _ := inv_runForeign stalls f
  deviceReset cause _ := inv_deviceReset cause

/-- Settles O5: every part of a step keeps the invariant. -/
theorem everyStepKeepsTheInvariant : Obligations.EveryStepKeepsTheInvariant :=
  fun _ _ h => inv_keptByParts.of_step { h with }

/-- Settles O6: on every device, and so on that of `State.reset`. -/
theorem resetMeetsTheInvariant : Obligations.ResetMeetsTheInvariant :=
  ⟨inv_resetOn, inv_resetOn Device.default⟩

/-! ## The device, program memory and the inputs to come -/

/-- The device's parameters, program memory and the inputs to come are those of `s` (R50, R59, R160). -/
def SameOutside (s t : State) : Prop := t.dev = s.dev ∧ t.prog = s.prog ∧ t.inputs = s.inputs

theorem sameOutside_ite {r s t : State} {b : Prop} [Decidable b] (hs : SameOutside r s) (ht : SameOutside r t) :
    SameOutside r (if b then s else t) := by
  split
  · exact hs
  · exact ht

section
variable {r s : State} (h : SameOutside r s)
include h

theorem sameOutside_act (a : EnvAction) : SameOutside r (act a s) := by
  cases a with
  | dmaRead a => exact sameOutside_ite h h
  | dmaWrite a v coincident => exact sameOutside_ite (sameOutside_ite h (sameOutside_ite h h)) h
  | usbRead a => exact sameOutside_ite h h
  | usbWrite a v => exact sameOutside_ite (sameOutside_ite h h) h
  | usbBdt start => exact sameOutside_ite h h
  | _ => exact h

theorem sameOutside_samplePin (levels : BitVec 5) (i : Nat) : SameOutside r (samplePin levels i s) := by
  unfold samplePin
  refine sameOutside_ite ?_ h
  cases s.dev.extIrq[i]? <;> exact h

theorem sameOutside_pinprev (levels : BitVec 5) : SameOutside r { s with pinprev := levels } := h

theorem sameOutside_swWrite (reg : Sfr) (mask v : Word) : SameOutside r (swWrite reg mask v s) := by
  cases reg <;> exact h

theorem sameOutside_applyEffect (inhibited : Bool) (e : CpuEffect) : SameOutside r (applyEffect inhibited e s) := by
  cases e with
  | sfrWrite reg mask v => exact sameOutside_ite h (sameOutside_swWrite h reg mask v)
  | w15Write v => exact sameOutside_ite h h
  | access a =>
    have checked : SameOutside r (accessCheck a s) := by
      unfold accessCheck
      cases a.viaW15 <;> exact h
    exact sameOutside_ite checked checked
  | status mask v => exact sameOutside_ite h h
  | stackFrame active => exact sameOutside_ite h h
  | _ => exact h

theorem sameOutside_enter (x : Source) (slot : ProgAddr) : SameOutside r (enter x slot s) := by
  simpa [SameOutside] using h

end

theorem sameOutside_samplePins {r s : State} (levels : BitVec 5) (h : SameOutside r s) :
    SameOutside r (samplePins levels s) := by
  have sampled := sameOutside_samplePin (sameOutside_samplePin (sameOutside_samplePin (sameOutside_samplePin
    (sameOutside_samplePin h levels 0) levels 1) levels 2) levels 3) levels 4
  exact sameOutside_pinprev sampled levels

theorem sameOutside_applyEffects {r s : State} (inhibited : Bool) (effects : List CpuEffect) (h : SameOutside r s) :
    SameOutside r (applyEffects inhibited effects s) := by
  induction effects generalizing s with
  | nil => exact h
  | cons e t ih => exact ih (sameOutside_applyEffect h inhibited e)

theorem sameOutside_runForeign {r s : State} (stalls : Nat) (f : Foreign) (h : SameOutside r s) :
    SameOutside r (runForeign stalls f s) := by
  have applied := sameOutside_applyEffects (f.effects.any (effectFaults (beginInstr f.words s))) f.effects
    (s := beginInstr f.words s) h
  simpa [SameOutside, runForeign, execForeign] using applied

/-- An instruction of the table leaves the device, program memory and the inputs to come alone (R59). -/
theorem sameOutside_exec {r s t : State} {i : Instr} (h : SameOutside r s) (hexec : exec i s = .next t) :
    SameOutside r t := by
  cases i <;> cases hexec
  case retfie => simpa [SameOutside] using h
  all_goals exact h

theorem sameOutside_runInstr {r s t : State} {stalls : Nat} {i : Instr} (h : SameOutside r s)
    (hrun : runInstr stalls i s = .next t) : SameOutside r t := by
  obtain ⟨u, hexec, rfl⟩ := runInstr_next hrun
  have hu := sameOutside_exec (s := beginInstr i.words s) h hexec
  cases i <;> exact hu

theorem sameOutside_keptByParts (r : State) : KeptByParts (SameOutside r) where
  act a _ h := sameOutside_act h a
  samplePins levels _ := sameOutside_samplePins levels
  settle _ h := h
  wake _ h := h
  draw _ _ h := h
  skid _ _ _ h := h
  enter x slot _ h := sameOutside_enter h x slot
  tickEntry _ _ h := h
  badFetch _ h := h
  runInstr _ := sameOutside_runInstr
  runForeign stalls f _ := sameOutside_runForeign stalls f
  deviceReset _ _ h := h

/-- Settles O7: no part of a step changes the device, program memory or the inputs to come, once the inputs of the
boundary are taken. -/
theorem stepKeepsDeviceAndProgram : Obligations.StepKeepsDeviceAndProgram :=
  fun s _ => (sameOutside_keptByParts { s with inputs := s.inputs.tail }).of_step ⟨rfl, rfl, rfl⟩

end Sys2Proof.Machine
end

section
/-!
CERTIFICATES. The values after Reset (R60), the software writes of registers (R26), and a peripheral's request (R35).
-/

namespace Sys2Proof.Machine

/-! ## Reset values (R60) -/

/-- The bits of an address that exist in the program counter (R23). -/
theorem and_pcMask (a : ProgAddr) : a &&& 0x7FFFFE#24 = (0#1 ++ a.extractLsb' 1 22 ++ 0#1 : BitVec 24) := by
  refine BitVec.eq_of_getLsbD_eq fun i hi => ?_
  have mask : ∀ j < 24, (0x7FFFFE#24).getLsbD j = (decide (1 ≤ j) && decide (j < 23)) := by decide
  rw [BitVec.getLsbD_and, mask i hi, BitVec.getLsbD_append, BitVec.getLsbD_append]
  by_cases hzero : i < 1
  · simp [Nat.lt_one_iff.mp hzero]
  · have hback : 1 + (i - 1) = i := by omega
    rw [if_neg hzero, BitVec.getLsbD_extractLsb', BitVec.getLsbD_zero, hback]
    by_cases htop : i < 23
    · have hfield : i - 1 < 22 := by omega
      simp [Nat.not_lt.mp hzero, htop, hfield]
    · have hfield : ¬ i - 1 < 22 := by omega
      simp [htop, hfield]

/-- A level field bit by bit. -/
theorem getLsbD_level {s : State} {k i : Nat} (hi : i < 3) (hk : k / 4 < 62) :
    (s.level k).getLsbD i = s.ipc[k / 4].getLsbD (4 * (k % 4) + i) := by
  simp [State.level, hk, hi]

/-- After Reset every implemented vector has level 4 (R60). -/
theorem level_resetOn (d : Device) (k : Nat) :
    (State.resetOn d).level k = if d.impl k then 4#3 else 0#3 := by
  by_cases hk : k / 4 < 62
  · refine BitVec.eq_of_getLsbD_eq fun i hi => ?_
    have four : ∀ i < 3, ∀ j < 4, (0x4444#16).getLsbD (4 * j + i) = (4#3).getLsbD i := by decide
    have hdiv : (4 * (k % 4) + i) / 4 = k % 4 := by omega
    have hmod : (4 * (k % 4) + i) % 4 = i := by omega
    rw [getLsbD_level hi hk]
    simp only [State.resetOn, Vector.getElem_ofFn]
    rw [BitVec.getLsbD_and, four i hi _ (Nat.mod_lt k (by decide)), getLsbD_ipcMask _ _ (by omega), hdiv, hmod,
      Nat.div_add_mod, decide_eq_true hi]
    cases d.impl k <;> simp
  · have himpl : d.impl k = false := by
      rw [Bool.eq_false_iff]
      intro h
      have := impl_lt h
      omega
    simp [State.level, himpl, hk]

/-- After Reset no flag and no enable is set (R60). -/
theorem flagAt_replicate_zero (k : Nat) : flagAt (Vector.replicate 16 0#16) k = false := by
  by_cases hk : k / 16 < 16
  · rw [flagAt_of_lt _ hk, Vector.getElem_replicate, BitVec.getLsbD_zero]
  · exact flagAt_of_ge _ (Nat.le_of_not_lt hk)

theorem resetValues_resetOn (d : Device) : ResetValues (State.resetOn d) where
  pcZero hfixed := by
    cases haux : d.auxFlash with
    | none => simp [State.resetOn, haux]
    | some f => simp [State.resetOn, haux, hfixed f haux]
  pcMoved f a hf ha := by
    have haux : d.auxFlash = some f := hf
    simp only [State.resetOn, haux, ha, Option.getD_some]
    exact and_pcMask a
  w15 := rfl
  splimEnabled := rfl
  sr := rfl
  corcon := rfl
  intcon1 := rfl
  intcon2 := rfl
  intcon3 := rfl
  intcon4 := rfl
  flags := flagAt_replicate_zero
  enables := flagAt_replicate_zero
  levels := level_resetOn d
  inttreg := rfl
  disicnt := ⟨rfl, rfl⟩
  wctx := rfl
  hold := ⟨rfl, rfl⟩
  power := rfl
  gieEff := rfl

/-- Settles O19: R60 on every device, and `State.reset` as one of them. -/
theorem resetStateHoldsTheStatedValues : Obligations.ResetStateHoldsTheStatedValues :=
  ⟨resetValues_resetOn, resetValues_resetOn Device.default, rfl, rfl, rfl⟩

/-! ## SR and CORCON (R25, R27) -/

/-- Settles O21: the masks of `writeSr`, read bit by bit. -/
theorem softwareWriteOfStatus : Obligations.SoftwareWriteOfStatus := by
  intro mask v s
  refine ⟨_, rfl, fun i hi => ?_⟩
  have writable : ∀ nstdis : Bool, ∀ i < 16,
      (if nstdis then 0x000F#16 else 0x00EF#16).getLsbD i = true ↔
        i < 4 ∨ (5 ≤ i ∧ i ≤ 7 ∧ nstdis = false) := by decide
  have clearable : ∀ i < 16, (0x3400#16).getLsbD i = true ↔ i = 10 ∨ i = 12 ∨ i = 13 := by decide
  simp only [getLsbD_filteredWrite, writable s.nstdis i hi, clearable i hi]

/-- Settles O22: the masks of `writeCorcon`, read bit by bit. -/
theorem softwareWriteOfCoreControl : Obligations.SoftwareWriteOfCoreControl := by
  intro mask v s
  refine ⟨_, rfl, fun i hi => ?_⟩
  have writable : ∀ i < 16, (0xB8F3#16).getLsbD i = true ↔ i ∈ [0, 1, 4, 5, 6, 7, 11, 12, 13, 15] := by decide
  have clearable : ∀ i < 16, (0x0008#16).getLsbD i = true ↔ i = 3 := by decide
  simp only [getLsbD_filteredWrite, writable i hi, clearable i hi]

/-! ## IFSx, IECx and IPCx (R35 to R37) -/

/-- A software write of one register of a bank of flags or enables changes the bits of the implemented vectors of that
register and no other. -/
theorem flagAt_plainWrite (d : Device) (bank : Vector Word 16) (x : Fin 16) (mask v : Word) (k : Nat) :
    flagAt (bank.set x.val (filteredWrite (d.flagMask x.val) 0#16 mask v bank[x])) k =
      if k / 16 = x.val ∧ mask.getLsbD (k % 16) = true ∧ d.impl k = true then v.getLsbD (k % 16)
      else flagAt bank k := by
  rw [flagAt_set]
  by_cases hk : k / 16 = x.val
  · have hlt : k / 16 < 16 := hk ▸ x.isLt
    have himpl : d.impl (16 * x.val + k % 16) = d.impl k := by rw [← hk, Nat.div_add_mod]
    rw [if_pos hk, getLsbD_plainWrite, getLsbD_flagMask _ _ (Nat.mod_lt k (by decide)), himpl, flagAt_of_lt _ hlt]
    simp [hk]
  · simp [hk]

/-- A software write of one register of the bank of levels changes the level bits of the implemented vectors of that
register and no other. -/
theorem level_plainWrite (x : Fin 62) (mask v : Word) (s : State) (k : Nat) {i : Nat} (hi : i < 3) :
    ((writeIpc x mask v s).level k).getLsbD i =
      if k / 4 = x.val ∧ mask.getLsbD (4 * (k % 4) + i) = true ∧ s.dev.impl k = true then
        v.getLsbD (4 * (k % 4) + i)
      else (s.level k).getLsbD i := by
  by_cases hlt : k / 4 < 62
  · rw [getLsbD_level hi hlt, getLsbD_level hi hlt]
    simp only [writeIpc, Vector.getElem_set]
    by_cases hk : k / 4 = x.val
    · have hdiv : (4 * (k % 4) + i) / 4 = k % 4 := by omega
      have hmod : (4 * (k % 4) + i) % 4 = i := by omega
      rw [if_pos hk.symm, getLsbD_plainWrite, getLsbD_ipcMask _ _ (by omega), hdiv, hmod, decide_eq_true hi, ← hk,
        Nat.div_add_mod]
      simp [← hk]
    · simp [hk, Ne.symm hk]
  · have hk : k / 4 ≠ x.val := fun e => hlt (e ▸ x.isLt)
    simp [State.level, hlt, hk]

/-- Settles O23: the flags, the enables and the levels, each by its bank. -/
theorem softwareWriteOfInterruptRegisters : Obligations.SoftwareWriteOfInterruptRegisters := fun mask v s =>
  ⟨fun x => ⟨_, rfl, flagAt_plainWrite s.dev s.ifs x mask v⟩,
    fun x => ⟨_, rfl, flagAt_plainWrite s.dev s.iec x mask v⟩,
    fun x => ⟨_, rfl, fun k _ hi => level_plainWrite x mask v s k hi⟩⟩

/-! ## INTTREG, FALTREG and SPLIM (R38, R39, R52) -/

/-- Settles O24: neither register has a write, and the fields of FALTREG lie outside its unimplemented bits. -/
theorem readOnlyRegistersIgnoreWrites : Obligations.ReadOnlyRegistersIgnoreWrites := by
  intro mask v s
  refine ⟨rfl, rfl, ?_, fun i h3 h7 => ?_⟩
  · refine BitVec.eq_of_getLsbD_eq fun i hi => ?_
    simp only [readSfr, BitVec.getLsbD_and, BitVec.getLsbD_or]
    cases s.dev.faltreg.getLsbD i <;> simp
  · have fields : ∀ i < 7, i ≠ 3 → (0xFF88#16).getLsbD i = false := by decide
    simp only [readSfr, BitVec.getLsbD_or, fields i h7 h3, Bool.or_false]

/-- A software write of all bits where all are writable leaves the written value. -/
theorem filteredWrite_all (v old : Word) : filteredWrite 0xFFFF#16 0#16 0xFFFF#16 v old = v := by
  refine BitVec.eq_of_getLsbD_eq fun i hi => ?_
  have all : ∀ i < 16, (0xFFFF#16).getLsbD i = true := by decide
  simp [getLsbD_plainWrite, all i hi]

/-- Settles O28: a word write names every bit, and no other write does. -/
theorem wordWriteOfSplimEnablesTheCheck : Obligations.WordWriteOfSplimEnablesTheCheck := by
  intro v s
  refine ⟨?_, fun mask hmask => ?_⟩
  · simp [swWrite, writeSplim, filteredWrite_all]
  · simp [swWrite, writeSplim, hmask]

/-! ## INTCON1 to INTCON4 and RCON (R28 to R34, R41) -/

/-- What a software write leaves in INTCON1: the written bits, with MATHERR drawn where a write of 0 meets a persisting
cause (R190, D13). -/
def intcon1Written (mask v : Word) (s : State) : Word :=
  let plain := filteredWrite (intcon1Impl s.dev) 0#16 mask v s.intcon1
  if mathClearOpen mask v s then setBits plain 0x0010#16 (Config.freeBit s.draws) else plain

/-- A software write of INTCON1 changes that register, the hard trap events that it makes, and the count of draws. -/
theorem writeIntcon1_eq (mask v : Word) (s : State) :
    writeIntcon1 mask v s =
      hardEventsIf (!s.intcon1.getLsbD 1 && (intcon1Written mask v s).getLsbD 1)
        (!s.intcon1.getLsbD 3 && (intcon1Written mask v s).getLsbD 3) false
        { s with intcon1 := intcon1Written mask v s, draws := s.draws + (mathClearOpen mask v s).toNat } := rfl

/-- Every bit of INTCON1 but a drawn MATHERR after a software write. -/
theorem getLsbD_intcon1Written {mask v : Word} {s : State} {i : Nat}
    (hmath : i = 4 → mathClearOpen mask v s = false) :
    (intcon1Written mask v s).getLsbD i =
      if mask.getLsbD i = true ∧ (intcon1Impl s.dev).getLsbD i = true then v.getLsbD i else s.intcon1.getLsbD i := by
  rw [← getLsbD_plainWrite, intcon1Written]
  cases hopen : mathClearOpen mask v s with
  | false => rfl
  | true =>
    have other : (0x0010#16).getLsbD i = false := by
      have hne : i ≠ 4 := fun e => by simp [hmath e] at hopen
      rw [show 0x0010#16 = BitVec.twoPow 16 4 from rfl, BitVec.getLsbD_twoPow]
      simp [Ne.symm hne]
    rw [if_pos rfl, getLsbD_setBits, other]
    rfl

/-- Settles O29: the written word bit by bit, the hard trap events from its bits 1 and 3. -/
theorem softwareWriteOfIntcon1 : Obligations.SoftwareWriteOfIntcon1 := by
  intro mask v s persists hpersists
  have hopen : mathClearOpen mask v s = persists := by
    rw [Bool.eq_iff_iff, hpersists]
    simp [mathClearOpen, accPersists, and_assoc]
  refine ⟨intcon1Written mask v s, ?_, fun i hi hmath => ?_⟩
  · rw [swWrite, writeIntcon1_eq, hopen]
    simp [hardEventsIf, Bool.toNat, cond_eq_ite]
  · simp only [getLsbD_intcon1Written (fun e => hopen.trans (hmath e)), getLsbD_intcon1Impl s.dev i hi]

/-- A generic hard trap event, where there is one (R203, R217). -/
theorem hardEventsIf_gen (b : Bool) (s : State) :
    hardEventsIf false false b s = { s with
      hardEvents := if b then { s.hardEvents with gen := true } else s.hardEvents
      hardHold := if b then true else s.hardHold } := by
  cases b <;> simp [hardEventsIf]

/-- Settles O25: INTCON2, INTCON3 and RCON in turn. -/
theorem softwareWriteOfIntcon2Intcon3AndRcon : Obligations.SoftwareWriteOfIntcon2Intcon3AndRcon := by
  intro mask v s soft hsoft
  refine ⟨⟨filteredWrite (intcon2Impl s.dev) 0#16 mask v s.intcon2, ?_, fun i hi => ?_⟩, ⟨_, rfl, fun i hi => ?_⟩, rfl⟩
  · have rises : (!s.intcon2.getLsbD 13 &&
        (filteredWrite (intcon2Impl s.dev) 0#16 mask v s.intcon2).getLsbD 13) = soft := by
      have swtrapImpl : (intcon2Impl s.dev).getLsbD 13 = true :=
        (getLsbD_intcon2Impl _ (by decide)).mpr (.inr (.inl rfl))
      rw [Bool.eq_iff_iff, hsoft, getLsbD_plainWrite, swtrapImpl, State.swtrap]
      cases s.intcon2.getLsbD 13 <;> cases mask.getLsbD 13 <;> simp
    simp only [swWrite, writeIntcon2, rises, hardEventsIf_gen]
    cases soft <;> simp
  · simp only [getLsbD_plainWrite, getLsbD_intcon2Impl _ hi]
  · simp only [getLsbD_plainWrite, getLsbD_intcon3Impl _ i hi]

/-- The bits of the mask of SGHT, the one bit of INTCON4 (R34). -/
theorem getLsbD_sghtMask (i : Nat) : (0x0001#16).getLsbD i = decide (i = 0) := by simp [BitVec.getLsbD_one]

/-- A software write of INTCON4 sets or clears SGHT where it is named (R34). -/
theorem filteredWrite_sght (mask v old : Word) :
    filteredWrite 0x0001#16 0#16 mask v old =
      if mask.getLsbD 0 then setBits old 0x0001#16 (v.getLsbD 0) else old := by
  refine BitVec.eq_of_getLsbD_eq fun i hi => ?_
  rw [getLsbD_plainWrite, getLsbD_sghtMask]
  by_cases hzero : i = 0
  · subst hzero
    cases mask.getLsbD 0 <;> simp [getLsbD_setBits, -BitVec.getLsbD_eq_getElem]
  · cases mask.getLsbD 0 <;> simp [getLsbD_setBits, hzero, -BitVec.getLsbD_eq_getElem]

/-- A later setting or clearing of the same bits wins. -/
theorem setBits_setBits (w m : Word) (a b : Bool) : setBits (setBits w m a) m b = setBits w m b := by
  refine BitVec.eq_of_getLsbD_eq fun i _ => ?_
  simp only [getLsbD_setBits]
  split <;> rfl

/-- Setting SGHT where it is 1 changes nothing. -/
theorem setBits_sght_same {w : Word} (h : w.getLsbD 0 = true) : setBits w 0x0001#16 true = w := by
  refine BitVec.eq_of_getLsbD_eq fun i _ => ?_
  rw [getLsbD_setBits, getLsbD_sghtMask]
  by_cases hzero : i = 0
  · subst hzero
    exact h.symm
  · simp [hzero]

theorem getLsbD_setBits_sght (w : Word) (b : Bool) : (setBits w 0x0001#16 b).getLsbD 0 = b := by
  rw [getLsbD_setBits]
  rfl

/-- A software write of 1 to SGHT, which is an event where SGHT was 0 (R203). -/
theorem writeIntcon4_one {mask v : Word} (hmask : mask.getLsbD 0 = true) (hv : v.getLsbD 0 = true) (s : State) :
    writeIntcon4 mask v s =
      hardEventsIf false false (!s.intcon4.getLsbD 0) { s with intcon4 := setBits s.intcon4 0x0001#16 true } := by
  simp only [writeIntcon4, filteredWrite_sght, hmask, hv, getLsbD_setBits_sght, Bool.not_true, Bool.and_false,
    Bool.false_and, if_true, Bool.false_eq_true, if_false, Bool.not_false, Bool.true_and, Bool.and_true,
    Bool.toNat_false, Nat.add_zero]

/-- A software write of 0 to SGHT is no event; while SWTRAP is 1 it leaves any value (R203, U20). -/
theorem writeIntcon4_zero {mask v : Word} (hmask : mask.getLsbD 0 = true) (hv : v.getLsbD 0 = false) (s : State) :
    writeIntcon4 mask v s = { s with
      intcon4 := setBits s.intcon4 0x0001#16 (s.swtrap && Config.freeBit s.draws)
      draws := s.draws + s.swtrap.toNat } := by
  cases hswtrap : s.swtrap <;>
    simp [writeIntcon4, filteredWrite_sght, hmask, hv, hswtrap, hardEventsIf_gen, setBits_setBits,
      getLsbD_setBits_sght, -BitVec.getLsbD_eq_getElem]

/-- A software write that does not name SGHT changes nothing. -/
theorem writeIntcon4_unnamed {mask : Word} (hmask : mask.getLsbD 0 = false) (v : Word) (s : State) :
    writeIntcon4 mask v s = s := by
  simp [writeIntcon4, filteredWrite_sght, hmask, hardEventsIf_gen, -BitVec.getLsbD_eq_getElem]

/-- Settles O26: a write of 1, a write of 0 without and with SWTRAP, and a write that changes nothing. -/
theorem softwareWriteOfSght : Obligations.SoftwareWriteOfSght := by
  intro mask v s
  simp only [swWrite]
  refine ⟨fun hmask hv hold => ?_, fun hmask hv hswtrap => ?_, fun hmask hv hswtrap => ?_, fun hkeep => ?_⟩
  · rw [writeIntcon4_one hmask hv, hold]
    exact hardEventsIf_gen true _
  · rw [writeIntcon4_zero hmask hv, hswtrap]
    rfl
  · refine ⟨Config.freeBit s.draws, ?_⟩
    rw [writeIntcon4_zero hmask hv, hswtrap]
    rfl
  · rcases Bool.eq_false_or_eq_true (mask.getLsbD 0) with hmask | hmask
    · obtain ⟨hv, hold⟩ := hkeep.resolve_left (by rw [hmask]; decide)
      rw [writeIntcon4_one hmask hv, hold, setBits_sght_same hold]
      exact hardEventsIf_gen false s
    · exact writeIntcon4_unnamed hmask v s

/-! ## A peripheral's request (R35, R160) -/

/-- Settles O40: a request is `setFlag`. -/
theorem peripheralRequestSetsItsFlag : Obligations.PeripheralRequestSetsItsFlag :=
  fun k s => ⟨_, rfl, fun j => flag_setFlag k j s⟩

end Sys2Proof.Machine
end

section
/-!
SUPPORT. Data space and the trap flags, said once: what a flag of INTCON1 is after each cause, what the address error
leaves, and what a store changes.  CERTIFICATES: the stores (R80, R81, R86) and the DMA write (R97, R191).
-/

namespace Sys2Proof.Machine

/-! ## The flags of a trap cause (R181) -/

theorem and_eq_self_of_withinMask {w m : Word} (h : WithinMask w m) : w &&& m = w := by
  refine BitVec.eq_of_getLsbD_eq fun i _ => ?_
  have hbit := withinMask_iff.mp h i
  rw [BitVec.getLsbD_and]
  cases hw : w.getLsbD i with
  | false => rfl
  | true => rw [hbit hw]; rfl

/-- A cause that names implemented bits of INTCON1 sets all of them. -/
theorem raise1_implemented {bits : Word} {s : State} (h : WithinMask bits (intcon1Impl s.dev)) :
    raise1 bits s = { s with intcon1 := s.intcon1 ||| bits } := by
  rw [raise1, and_eq_self_of_withinMask h]

theorem getLsbD_twoPow_ne {i k : Nat} (h : i ≠ k) : (BitVec.twoPow 16 k).getLsbD i = false := by
  rw [BitVec.getLsbD_twoPow]
  simp [Ne.symm h]

/-- A flag of a word that is set where a condition holds. -/
theorem getLsbD_flagIf (b : Bool) (k i : Nat) (hk : k < 16) :
    (if b then BitVec.twoPow 16 k else 0#16).getLsbD i = (b && decide (i = k)) := by
  cases b with
  | false => simp
  | true =>
    rw [if_pos rfl, BitVec.getLsbD_twoPow, Bool.true_and]
    simp [hk, eq_comm]

/-- The stack error trap sets STKERR, bit 2 of INTCON1, and no other bit (R184). -/
theorem getLsbD_raiseStackIf (b : Bool) (s : State) (i : Nat) :
    (raiseStackIf b s).intcon1.getLsbD i = (s.intcon1.getLsbD i || (b && decide (i = 2))) := by
  have implemented : WithinMask (if b then 0x0004#16 else 0#16) (intcon1Impl s.dev) :=
    withinMask_ite (withinMask_intcon1Impl _ (by decide)) withinMask_zero
  rw [raiseStackIf, raise1_implemented implemented, ← getLsbD_flagIf b 2 i (by decide), ← BitVec.getLsbD_or]
  rfl

/-- The address error trap sets ADDRERR, bit 3 of INTCON1, and no other bit (R200). -/
theorem getLsbD_raiseAddressIf (b : Bool) (s : State) (i : Nat) :
    (raiseAddressIf b s).intcon1.getLsbD i = (s.intcon1.getLsbD i || (b && decide (i = 3))) := by
  rw [← getLsbD_flagIf b 3 i (by decide), ← BitVec.getLsbD_or]
  rfl

/-- Without an address error nothing happens. -/
theorem raiseAddressIf_false (s : State) : raiseAddressIf false s = s := by simp [raiseAddressIf]

/-! ## Stores (R80, R86) -/

/-- A read of data space looks at data space only. -/
theorem readByte_congr {s t : State} (h : t.data = s.data) (a : Word) : readByte t a = readByte s a := by
  rw [readByte, h, readByte]

/-- The bytes after a CPU store of a byte. -/
theorem readByte_cpuStoreByteIf (b : Bool) (ea : Word) (v : Byte) (s : State) (a : Word) :
    readByte (cpuStoreByteIf b ea v s) a = if b = true ∧ a = ea then v else readByte s a := by
  cases b with
  | false => simp [readByte, cpuStoreByteIf]
  | true => simp [readByte, cpuStoreByteIf, memRead_storeByte]

/-- The bytes after a CPU store of a word, the low one at the address itself (R80). -/
theorem readByte_cpuStoreWordIf (b : Bool) (ea v : Word) (s : State) (a : Word) :
    readByte (cpuStoreWordIf b ea v s) a =
      if b = true ∧ a = ea + 1 then v.extractLsb' 8 8
      else if b = true ∧ a = ea then v.extractLsb' 0 8
      else readByte s a := by
  cases b with
  | false => simp [readByte, cpuStoreWordIf]
  | true => simp [readByte, cpuStoreWordIf, memRead_storeWord]

@[simp] theorem readByte_raiseAddressIf (b : Bool) (s : State) (a : Word) :
    readByte (raiseAddressIf b s) a = readByte s a := readByte_congr rfl a

/-- A word store that does not use W15 is the trap of its access and the store of the word where it lands. -/
theorem applyEffect_wordStore (ea v : Word) (s : State) :
    applyEffect false (.access { write := true, word := true, ea := ea, value := v, viaW15 := none }) s =
      cpuStoreWordIf (storeLands s true ea) ea v (raiseAddressIf (accessFaults s true true ea) s) := rfl

/-- A byte store that does not use W15 is the trap of its access and the store of the value's low byte where it
lands. -/
theorem applyEffect_byteStore (ea v : Word) (s : State) :
    applyEffect false (.access { write := true, word := false, ea := ea, value := v, viaW15 := none }) s =
      cpuStoreByteIf (storeLands s false ea) ea (v.extractLsb' 0 8)
        (raiseAddressIf (accessFaults s true false ea) s) := by
  rw [← BitVec.setWidth_eq_extractLsb' (by decide)]
  rfl

/-- A store to an implemented address, aligned where it is of a word, raises nothing. -/
theorem accessFaults_store {s : State} {word : Bool} {ea : Word} (haligned : word = true → ea.getLsbD 0 = false)
    (himpl : s.dataImpl ea = true) : accessFaults s true word ea = false := by
  cases word with
  | false => simp [accessFaults, himpl]
  | true => simp only [accessFaults, himpl, haligned rfl]; rfl

/-- A store reaches no unimplemented address (U10). -/
theorem storeLands_unimplemented {s : State} {ea : Word} (himpl : s.dataImpl ea = false) (word : Bool) :
    storeLands s word ea = false := by
  rw [storeLands, himpl, Bool.false_and]

/-- Settles O34: the store of a word, the store of a byte, and the store that does not land. -/
theorem storesWriteTheirBytes : Obligations.StoresWriteTheirBytes := by
  rintro ea v s w b rfl rfl
  rw [applyEffect_wordStore, applyEffect_byteStore]
  refine ⟨fun heven himpl => ?_, fun himpl => ?_, fun himpl a => ?_⟩
  · have quiet := accessFaults_store (s := s) (word := true) (fun _ => heven) himpl
    have lands : storeLands s true ea = true := by rw [storeLands, himpl, quiet]; rfl
    rw [quiet, lands, raiseAddressIf_false]
    refine ⟨readWord_of_storeWord s.data ea v _ rfl, ?_, ?_, fun a hlow hhigh => ?_, rfl, rfl⟩
    · simp [readByte_cpuStoreWordIf]
    · simp [readByte_cpuStoreWordIf]
    · rw [readByte_cpuStoreWordIf, if_neg fun h => hhigh h.2, if_neg fun h => hlow h.2]
  · have quiet := accessFaults_store (s := s) (word := false) (fun h => absurd h Bool.false_ne_true) himpl
    have lands : storeLands s false ea = true := by rw [storeLands, himpl, quiet]; rfl
    rw [quiet, lands, raiseAddressIf_false]
    refine ⟨?_, fun a hother => ?_, rfl, rfl⟩
    · simp [readByte_cpuStoreByteIf]
    · simp [readByte_cpuStoreByteIf, hother]
  · simp [readByte_cpuStoreWordIf, readByte_cpuStoreByteIf, storeLands_unimplemented himpl]

/-! ## The DMA write (R97, R191) -/

/-- On a device with a DMA controller the DMAC error trap sets DMACERR (R29, R191). -/
theorem raiseDmac_eq {s : State} (hdma : s.dev.hasDma = true) :
    raiseDmac s = { s with intcon1 := s.intcon1 ||| 0x0020#16 } := by
  have implemented : WithinMask 0x0020#16 (intcon1Impl s.dev) := by
    rw [withinMask_iff]
    intro i hi
    simp [intcon1Impl, hdma, hi]
  exact raise1_implemented implemented

theorem dmaWrite_collision {a : Word} {s : State} (himpl : s.dataImpl a = true) (hmem : a ∈ s.cpuWrites) (v : Byte) :
    dmaWrite a v true s = raiseDmac s := by
  simp [dmaWrite, himpl, hmem]

theorem dmaWrite_stores {a : Word} {c : Bool} {s : State} (himpl : s.dataImpl a = true)
    (hfree : c = false ∨ a ∉ s.cpuWrites) (v : Byte) :
    dmaWrite a v c s = { s with data := storeByte s.data a v } := by
  rcases hfree with rfl | hmem
  · simp [dmaWrite, himpl]
  · simp [dmaWrite, himpl, hmem]

/-- Settles O37: the colliding write raises the trap, any other stores its byte. -/
theorem cpuWinsTheWriteCollision : Obligations.CpuWinsTheWriteCollision := by
  intro a v c s hdma himpl
  have performed : act (.dmaWrite a v c) s = dmaWrite a v c s := if_pos hdma
  rw [performed]
  refine ⟨fun hc hmem => ?_, fun hfree =>
    ⟨_, dmaWrite_stores himpl hfree v, fun b => memRead_storeByte s.data a b v⟩⟩
  rw [hc, dmaWrite_collision himpl hmem, raiseDmac_eq hdma]

end Sys2Proof.Machine
end

section
/-!
CERTIFICATES. The software stack: the checks of an instruction outside the table (R90, R184), and `RETURN` and `RETFIE`
on a stack that cannot be read (R81, R86, U9).
-/

namespace Sys2Proof.Machine

/-! ## The stack checks (R90) -/

/-- The stack checks of one address, as numbers. -/
theorem stackBad_iff (s : State) (ea : Word) (wraps : Bool) : stackBad s ea wraps = true ↔
    ea.toNat < 0x1000 ∨ (s.splimEnabled = true ∧ s.splim.toNat < ea.toNat) ∨ wraps = true := by
  simp [stackBad, stackBase, BitVec.lt_def, or_assoc]

/-- The access forms its address from W15, and that address violates a stack check. -/
def accessViolates (s : State) (a : DataAccess) : Bool := a.viaW15.any (stackBad s a.ea)

theorem accessViolates_iff (s : State) (a : DataAccess) : accessViolates s a = true ↔
    ∃ wraps, a.viaW15 = some wraps ∧
      (a.ea.toNat < 0x1000 ∨ (s.splimEnabled = true ∧ s.splim.toNat < a.ea.toNat) ∨ wraps = true) := by
  simp only [accessViolates, Option.any_eq_true, stackBad_iff]

/-- An access sets STKERR where it violates a stack check. -/
theorem stkerr_access (inhibited : Bool) (a : DataAccess) (s : State) :
    (applyEffect inhibited (.access a) s).intcon1.getLsbD 2 = (s.intcon1.getLsbD 2 || accessViolates s a) := by
  have stored (u : State) : (accessStore inhibited a u).intcon1 = u.intcon1 := by
    unfold accessStore
    split <;> rfl
  rw [applyEffect, stored, getLsbD_raiseAddressIf, accessCheck, accessViolates]
  cases a.viaW15 with
  | none => simp
  | some wraps => simp [stackCheck, getLsbD_raiseStackIf, -BitVec.getLsbD_eq_getElem]

/-- An access leaves W15 alone. -/
theorem applyEffect_access_w15 (inhibited : Bool) (a : DataAccess) (s : State) :
    (applyEffect inhibited (.access a) s).w15 = s.w15 := by
  simp only [applyEffect, accessStore, accessCheck]
  cases a.word <;> cases a.viaW15 <;> rfl

/-- A write of W15 raises no trap itself; the check comes with the W15 that the instruction leaves. -/
theorem applyEffect_w15Write_intcon1 (inhibited : Bool) (v : Word) (s : State) :
    (applyEffect inhibited (.w15Write v) s).intcon1 = s.intcon1 := by
  cases inhibited <;> rfl

/-- An instruction outside the table sets STKERR in its effects, or by the check of the W15 it leaves. -/
theorem stkerr_execForeign (f : Foreign) (s : State) : (execForeign f s).intcon1.getLsbD 2 =
    ((applyEffects (f.effects.any (effectFaults s)) f.effects s).intcon1.getLsbD 2 ||
      (f.effects.any usesW15 && decide ((execForeign f s).w15 < stackBase))) := by
  simp [execForeign, leaveCheck, getLsbD_raiseStackIf, -BitVec.getLsbD_eq_getElem]

/-- The W15 that an instruction outside the table leaves is that of its effects. -/
theorem execForeign_w15 (f : Foreign) (s : State) :
    (execForeign f s).w15 = (applyEffects (f.effects.any (effectFaults s)) f.effects s).w15 := by
  simp [execForeign]

/-- The effects of an instruction that makes at most one data access and writes W15 at most once. -/
def accessThenWrite (a : Option DataAccess) (v : Option Word) : List CpuEffect :=
  (a.map CpuEffect.access).toList ++ (v.map CpuEffect.w15Write).toList

section
variable (a : Option DataAccess) (v : Option Word) (inhibited : Bool) (s : State)

theorem stkerr_accessThenWrite : (applyEffects inhibited (accessThenWrite a v) s).intcon1.getLsbD 2 =
    (s.intcon1.getLsbD 2 || a.any (accessViolates s)) := by
  have written (u : State) : (applyEffects inhibited (v.map CpuEffect.w15Write).toList u).intcon1 = u.intcon1 := by
    cases v with
    | none => rfl
    | some x => exact applyEffect_w15Write_intcon1 inhibited x u
  cases a with
  | none =>
    rw [Option.any_none, Bool.or_false]
    exact congrArg (BitVec.getLsbD · 2) (written s)
  | some acc => exact (congrArg (BitVec.getLsbD · 2) (written _)).trans (stkerr_access inhibited acc s)

theorem w15_accessThenWrite (h : inhibited = false ∨ v = none) :
    (applyEffects inhibited (accessThenWrite a v) s).w15 = v.getD s.w15 := by
  have written (u : State) : (applyEffects inhibited (v.map CpuEffect.w15Write).toList u).w15 = v.getD u.w15 := by
    cases v with
    | none => rfl
    | some x => rw [h.resolve_right nofun]; rfl
  cases a with
  | none => exact written s
  | some acc => exact (written _).trans (by rw [applyEffect_access_w15])

theorem any_usesW15_accessThenWrite :
    (accessThenWrite a v).any usesW15 = true ↔
      v.isSome = true ∨ ∃ acc wraps, a = some acc ∧ acc.viaW15 = some wraps := by
  cases a <;> cases v <;> simp [accessThenWrite, usesW15, Option.isSome_iff_exists]

theorem any_effectFaults_accessThenWrite :
    (accessThenWrite a v).any (effectFaults s) = a.any fun acc => accessFaults s acc.write acc.word acc.ea := by
  cases a <;> cases v <;> simp [accessThenWrite, effectFaults]

end

/-- Settles O33: the check of the access and the check of the W15 left. -/
theorem stackChecks : Obligations.StackChecks := by
  rintro a v twoWords cycles target s t hclear rfl
  have hviolates : a.any (accessViolates s) = true ↔ ∃ acc wraps, a = some acc ∧ acc.viaW15 = some wraps ∧
      (acc.ea.toNat < 0x1000 ∨ (s.splimEnabled = true ∧ s.splim.toNat < acc.ea.toNat) ∨ wraps = true) := by
    simp only [Option.any_eq_true, accessViolates_iff, exists_and_left]
  refine ⟨?_, fun hquiet => ?_, fun hv => ?_⟩
  · rw [stkerr_execForeign, ← accessThenWrite, stkerr_accessThenWrite, hclear, Bool.false_or, Bool.or_eq_true,
      Bool.and_eq_true, hviolates, any_usesW15_accessThenWrite, decide_eq_true_iff, BitVec.lt_def]
    rfl
  · have hcalm : (accessThenWrite a v).any (effectFaults s) = false := by
      rw [any_effectFaults_accessThenWrite]
      cases a with
      | none => rfl
      | some acc => exact hquiet acc rfl
    rw [execForeign_w15, ← accessThenWrite, hcalm]
    exact w15_accessThenWrite a v false s (.inl rfl)
  · rw [execForeign_w15, ← accessThenWrite, w15_accessThenWrite a v _ s (.inr hv), hv]
    rfl

/-! ## The address error trap -/

/-- Between two states the address error trap is raised where `b`, and no other hard trap (R200, R217). -/
structure AddressRaised (b : Bool) (s t : State) : Prop where
  flag : t.intcon1.getLsbD 3 = (s.intcon1.getLsbD 3 || b)
  event : t.hardEvents = { s.hardEvents with addr := s.hardEvents.addr || b }
  hold : t.hardHold = (s.hardHold || b)

/-- What leaves ADDRERR and the hard trap events alone raises no address error. -/
theorem addressRaised_of_same {s t : State} (hflag : t.intcon1.getLsbD 3 = s.intcon1.getLsbD 3)
    (hevent : t.hardEvents = s.hardEvents) (hhold : t.hardHold = s.hardHold) : AddressRaised false s t where
  flag := by rw [hflag, Bool.or_false]
  event := by rw [hevent, Bool.or_false]
  hold := by rw [hhold, Bool.or_false]

theorem AddressRaised.trans {b c : Bool} {s t u : State} (h : AddressRaised b s t) (h' : AddressRaised c t u) :
    AddressRaised (b || c) s u where
  flag := by rw [h'.flag, h.flag, Bool.or_assoc]
  event := by rw [h'.event, h.event, Bool.or_assoc]
  hold := by rw [h'.hold, h.hold, Bool.or_assoc]

theorem addressRaised_raiseAddressIf (b : Bool) (s : State) : AddressRaised b s (raiseAddressIf b s) where
  flag := by simp [getLsbD_raiseAddressIf, -BitVec.getLsbD_eq_getElem]
  event := rfl
  hold := rfl

/-! ## Two pops (R81, R86, R90) -/

/-- The address of a pop violates a stack check. -/
def popBad (s : State) : Bool := stackBad s (s.w15 - 2) (decide (s.w15 < 2#16))

theorem popBad_iff (s : State) : popBad s = true ↔
    s.w15 - 2 < stackBase ∨ (s.splimEnabled = true ∧ s.splim < s.w15 - 2) ∨ s.w15 < 2#16 := by
  simp only [popBad, stackBad, Bool.or_eq_true, Bool.and_eq_true, decide_eq_true_eq, or_assoc]

/-- A new W15 sets STKERR where it is below the floor (R90 item a). -/
theorem getLsbD_setSp (v : Word) (s : State) (i : Nat) : (setSp v s).intcon1.getLsbD i =
    (s.intcon1.getLsbD i || (decide (v < stackBase) && decide (i = 2))) := getLsbD_raiseStackIf _ _ i

/-- A pop sets STKERR where its address violates a stack check and ADDRERR where its word cannot be read. -/
theorem getLsbD_popState (s : State) (i : Nat) : (popState s).intcon1.getLsbD i =
    (s.intcon1.getLsbD i || (popBad s && decide (i = 2)) || (popFaults s && decide (i = 3))) := by
  have floor : (popBad s || decide (s.w15 - 2 < stackBase)) = popBad s := by
    rw [Bool.or_eq_left_iff_imp, decide_eq_true_iff, popBad_iff]
    exact .inl
  have raised : (popState s).intcon1.getLsbD i = (s.intcon1.getLsbD i || (popBad s && decide (i = 2)) ||
      (popFaults s && decide (i = 3)) || (decide (s.w15 - 2 < stackBase) && decide (i = 2))) := by
    simp only [popState, getLsbD_setSp, getLsbD_raiseAddressIf, stackCheck, getLsbD_raiseStackIf, popBad]
  rw [raised, Bool.or_right_comm, Bool.or_assoc _ (popBad s && _), ← Bool.and_or_distrib_right, floor]

theorem addressRaised_popState (s : State) : AddressRaised (popFaults s) s (popState s) where
  flag := by simp [getLsbD_popState, -BitVec.getLsbD_eq_getElem]
  event := rfl
  hold := rfl

theorem sub_four (a : Word) : a - 4 = a - 2 - 2 := by bv_omega

/-- Where a word to be popped cannot be read, one of the two pops raises the address error trap. -/
theorem popFaults_of_unreadable {s : State} (h : ¬ StackReadable s) :
    (popFaults s || popFaults (popState s)) = true := by
  rw [StackReadable, sub_four] at h
  simp only [popFaults, accessFaults, popState_w15, popState_dataImpl, bit0_sub_two]
  cases hodd : s.w15.getLsbD 0 with
  | true => rfl
  | false =>
    cases hfirst : s.dataImpl (s.w15 - 2) with
    | false => rfl
    | true =>
      cases hsecond : s.dataImpl (s.w15 - 2 - 2) with
      | false => rfl
      | true => exact absurd ⟨hodd, hfirst, hsecond⟩ h

/-- Where two pops violate a stack limit, the address of one of them violates a stack check. -/
theorem popBad_of_popsViolate {s : State} (h : popsViolate s = true) : (popBad s || popBad (popState s)) = true := by
  have borrow (hlow : s.w15 < 4#16) : s.w15 < 2#16 ∨ s.w15 - 2 < 2#16 := by bv_omega
  simp only [popsViolate, sub_four, Bool.or_eq_true, Bool.and_eq_true, decide_eq_true_eq] at h
  rw [Bool.or_eq_true, popBad_iff, popBad_iff, popState_w15, popState_splim, popState_splimEnabled]
  rcases h with ((hfloor | hfloor) | ⟨hon, hlimit | hlimit⟩) | hlow
  · exact .inl (.inl hfloor)
  · exact .inr (.inl hfloor)
  · exact .inl (.inr (.inl ⟨hon, hlimit⟩))
  · exact .inr (.inr (.inl ⟨hon, hlimit⟩))
  · exact (borrow hlow).imp (.inr <| .inr ·) (.inr <| .inr ·)

/-! ## `RETURN` and `RETFIE` -/

/-- Setting or clearing one bit leaves the others alone. -/
theorem getLsbD_setBits_twoPow {i k : Nat} (h : i ≠ k) (w : Word) (b : Bool) :
    (setBits w (BitVec.twoPow 16 k) b).getLsbD i = w.getLsbD i := by
  rw [getLsbD_setBits, getLsbD_twoPow_ne h, if_neg Bool.false_ne_true]

/-- `RETFIE` restores SRL and leaves SR<15:8> alone (R130). -/
theorem restoreStatus_sr_high (hi lo : Word) (s : State) {j : Nat} (hj : 8 ≤ j) :
    (restoreStatus hi lo s).sr.getLsbD j = s.sr.getLsbD j := by
  by_cases hlt : j < 16
  · have kept : ∀ j < 16, 8 ≤ j → (0xFF00#16).getLsbD j = true := by decide
    simp only [restoreStatus, BitVec.getLsbD_or, BitVec.getLsbD_and, BitVec.getLsbD_ushiftRight, kept j hlt hj]
    rw [BitVec.getLsbD_of_ge hi _ (by omega), Bool.and_true, Bool.or_false]
  · rw [BitVec.getLsbD_of_ge _ _ (by omega), BitVec.getLsbD_of_ge _ _ (by omega)]

/-- `RETFIE` restores IPL3 and SFA and leaves the rest of CORCON alone (R130). -/
theorem restoreStatus_corcon_other (hi lo : Word) (s : State) {j : Nat} (hsfa : j ≠ 2) (hipl3 : j ≠ 3) :
    (restoreStatus hi lo s).corcon.getLsbD j = s.corcon.getLsbD j :=
  (getLsbD_setBits_twoPow hsfa _ _).trans (getLsbD_setBits_twoPow hipl3 _ _)

/-- The count of draws and the stack checks of a new W15 do not meet. -/
theorem setSp_with_draws (v : Word) (n : Nat) (s : State) :
    setSp v { s with draws := n } = { setSp v s with draws := n } := rfl

/-- `RETURN` makes two pops, sets W15 and writes the program counter (R139). -/
theorem returnFromCall_frame (s : State) : ∃ sp n, returnFromCall s =
    { setSp sp (popState (popState s)) with pc := (returnFromCall s).pc, draws := n } := by
  simp only [returnFromCall, pop16, setSp_with_draws]
  exact ⟨_, _, rfl⟩

/-- `RETFIE` makes two pops, sets W15 and writes the program counter, SR, CORCON and the register set (R130). -/
theorem returnFromException_frame (s : State) : ∃ sp set n, returnFromException s =
    { setSp sp (popState (popState s)) with
      pc := (returnFromException s).pc, sr := (returnFromException s).sr, corcon := (returnFromException s).corcon
      wctx := set, draws := n } := by
  simp only [returnFromException, pop16, setSp_with_draws, restoreStatus, useSet]
  exact ⟨_, _, _, rfl⟩

/-- What `RETFIE` leaves in SR and CORCON is restored from two words. -/
theorem returnFromException_status (s : State) : ∃ hi lo, (returnFromException s).sr = (restoreStatus hi lo s).sr ∧
    (returnFromException s).corcon = (restoreStatus hi lo s).corcon := by
  simp only [returnFromException, pop16, useSet_sr, useSet_corcon]
  exact ⟨_, _, rfl, rfl⟩

/-- `RETURN` and `RETFIE` make two pops and set W15, and then write the program counter; beside these `RETURN` writes
nothing, `RETFIE` SRL, IPL3, SFA and the register set (R130, R139). -/
theorem exec_return {i : Instr} (hi : i = .ret ∨ i = .retfie) (s : State) :
    ∃ (sp : Word) (target : ProgAddr) (status core : Word) (set : WSet) (drawn : Nat),
      exec i s = .next { setSp sp (popState (popState s)) with
        pc := target, sr := status, corcon := core, wctx := set, draws := drawn } ∧
      (∀ j, 8 ≤ j → status.getLsbD j = s.sr.getLsbD j) ∧
      (∀ j, j ≠ 2 → j ≠ 3 → core.getLsbD j = s.corcon.getLsbD j) ∧
      (i = .ret → status = s.sr ∧ core = s.corcon ∧ set = s.wctx) := by
  obtain rfl | rfl := hi
  · obtain ⟨sp, n, frame⟩ := returnFromCall_frame s
    exact ⟨sp, _, s.sr, s.corcon, s.wctx, n, congrArg Host.Outcome.next frame, fun _ _ => rfl, fun _ _ _ => rfl,
      fun _ => ⟨rfl, rfl, rfl⟩⟩
  · obtain ⟨sp, set, n, frame⟩ := returnFromException_frame s
    obtain ⟨high, low, hsr, hcorcon⟩ := returnFromException_status s
    refine ⟨sp, _, _, _, set, n, congrArg Host.Outcome.next frame, fun j hj => ?_, fun j hsfa hipl3 => ?_, nofun⟩
    · rw [hsr, restoreStatus_sr_high _ _ _ hj]
    · rw [hcorcon, restoreStatus_corcon_other _ _ _ hsfa hipl3]

/-- Settles O17: the traps of the two pops, and what the instructions write beside them. -/
theorem popOfAnUnreadableWordTraps : Obligations.PopOfAnUnreadableWordTraps := by
  intro s i hi hstack
  obtain ⟨sp, target, status, core, set, drawn, hexec, hstatus, hcore, hret⟩ := exec_return hi s
  have raised : AddressRaised true s (popState (popState s)) := by
    rw [← popFaults_of_unreadable hstack]
    exact (addressRaised_popState s).trans (addressRaised_popState _)
  refine ⟨_, hexec, ?_, ?_, ?_, ?_, ?_, readByte_congr (by simp), by simp, hstatus, hcore, ?_⟩
  · exact (getLsbD_setSp _ _ 3).trans (by rw [raised.flag]; simp)
  · simpa using raised.event
  · simpa using raised.hold
  · intro hflag
    refine (getLsbD_setSp _ _ 2).trans ?_
    rw [getLsbD_popState, getLsbD_popState]
    rcases hflag with hset | hviolates
    · simp only [hset, Bool.true_or]
    · rcases Bool.or_eq_true_iff.mp (popBad_of_popsViolate hviolates) with hbad | hbad <;> simp [hbad]
  · intro j h2 h3
    refine (getLsbD_setSp _ _ j).trans ?_
    simp only [getLsbD_popState, h2, h3, decide_false, Bool.and_false, Bool.or_false]
  · simpa using hret

end Sys2Proof.Machine
end

section
/-!
CERTIFICATES. An address error trap inhibits every data-space write of its instruction (R100): the induction over the
effects of an instruction outside the table, one of which raises the trap.
-/

namespace Sys2Proof.Machine

/-! ## What an inhibited instruction can change -/

/-- The word `y` is `x` with some bits of the mask set. -/
def RaisedWithin (m x y : Word) : Prop := ∃ raised, WithinMask raised m ∧ y = x ||| raised

theorem raisedWithin_refl (m x : Word) : RaisedWithin m x x := ⟨0#16, withinMask_zero, BitVec.or_zero.symm⟩

theorem RaisedWithin.trans {m x y z : Word} (h : RaisedWithin m x y) (h' : RaisedWithin m y z) :
    RaisedWithin m x z := by
  obtain ⟨first, hfirst, rfl⟩ := h
  obtain ⟨second, hsecond, rfl⟩ := h'
  exact ⟨_, withinMask_or hfirst hsecond, BitVec.or_assoc _ _ _⟩

/-- A flag that is set stays set. -/
theorem RaisedWithin.keeps_set {m x y : Word} (h : RaisedWithin m x y) {i : Nat} (hi : x.getLsbD i = true) :
    y.getLsbD i = true := by
  obtain ⟨raised, -, rfl⟩ := h
  rw [BitVec.getLsbD_or, hi, Bool.true_or]

/-- A bit outside the mask keeps its value. -/
theorem RaisedWithin.keeps_outside {m x y : Word} (h : RaisedWithin m x y) {i : Nat} (hi : m.getLsbD i = false) :
    y.getLsbD i = x.getLsbD i := by
  obtain ⟨raised, hmask, rfl⟩ := h
  have hzero : raised.getLsbD i = false := Bool.eq_false_iff.mpr fun hset => by
    rw [withinMask_iff.mp hmask i hset] at hi
    cases hi
  rw [BitVec.getLsbD_or, hzero, Bool.or_false]

/-- What the effects of an instruction can change where one of them raises the address error: the registers that the
instruction writes itself, the flags that hardware sets, and the hard trap events.  The flags are STKERR, ADDRERR,
MATHERR and its causes in INTCON1, and DOOVR in INTCON3; of CORCON it is SFA and DL. -/
structure InhibitedTo (s t : State) : Prop where
  frame : t = { s with
    pc := t.pc, w15 := t.w15, sr := t.sr, corcon := t.corcon, intcon1 := t.intcon1, intcon3 := t.intcon3
    hardHold := t.hardHold, hardEvents := t.hardEvents, draws := t.draws }
  intcon1 : RaisedWithin 0x78DC#16 s.intcon1 t.intcon1
  intcon3 : RaisedWithin 0x0010#16 s.intcon3 t.intcon3
  corcon : ∀ i, i ∉ [2, 8, 9, 10] → t.corcon.getLsbD i = s.corcon.getLsbD i
  ipl : t.ipl = s.ipl

theorem inhibitedTo_refl (s : State) : InhibitedTo s s where
  frame := rfl
  intcon1 := raisedWithin_refl _ _
  intcon3 := raisedWithin_refl _ _
  corcon _ _ := rfl
  ipl := rfl

theorem InhibitedTo.trans {s t u : State} (h : InhibitedTo s t) (h' : InhibitedTo t u) : InhibitedTo s u where
  frame := h'.frame.trans (by rw [h.frame])
  intcon1 := h.intcon1.trans h'.intcon1
  intcon3 := h.intcon3.trans h'.intcon3
  corcon i hi := (h'.corcon i hi).trans (h.corcon i hi)
  ipl := h'.ipl.trans h.ipl

/-! ## Each effect -/

/-- The flags of INTCON1 that the effects of an instruction set by causes other than the address error: STKERR, MATHERR
and the causes of the math error trap. -/
def otherCauses : Word := 0x78D4#16

theorem withinMask_trans {w m m' : Word} (h : WithinMask w m) (h' : WithinMask m m') : WithinMask w m' := by
  rw [withinMask_iff] at *
  exact fun i hi => h' i (h i hi)

section
variable (s : State)

theorem inhibitedTo_raise1 {bits : Word} (h : WithinMask bits otherCauses) : InhibitedTo s (raise1 bits s) :=
  { inhibitedTo_refl s with
    frame := rfl
    intcon1 := ⟨_, withinMask_and_left (withinMask_trans h (by decide)), rfl⟩ }

theorem inhibitedTo_raiseAddressIf (b : Bool) : InhibitedTo s (raiseAddressIf b s) :=
  { inhibitedTo_refl s with
    frame := rfl
    intcon1 := ⟨_, withinMask_ite (by decide) withinMask_zero, rfl⟩ }

theorem inhibitedTo_raiseStackIf (b : Bool) : InhibitedTo s (raiseStackIf b s) :=
  inhibitedTo_raise1 s (withinMask_ite (by decide) withinMask_zero)

theorem inhibitedTo_accessCheck (a : DataAccess) : InhibitedTo s (accessCheck a s) := by
  unfold accessCheck
  cases a.viaW15 with
  | none => exact inhibitedTo_refl s
  | some wraps => exact inhibitedTo_raiseStackIf s _

theorem addressRaised_raise1 {bits : Word} (h : WithinMask bits otherCauses) :
    AddressRaised false s (raise1 bits s) := by
  have haddr : bits.getLsbD 3 = false := Bool.eq_false_iff.mpr fun hset => by
    cases withinMask_iff.mp h 3 hset
  exact addressRaised_of_same (by simp [raise1, haddr, -BitVec.getLsbD_eq_getElem]) rfl rfl

theorem addressRaised_raiseStackIf (b : Bool) : AddressRaised false s (raiseStackIf b s) :=
  addressRaised_raise1 s (withinMask_ite (by decide) withinMask_zero)

theorem addressRaised_accessCheck (a : DataAccess) : AddressRaised false s (accessCheck a s) := by
  unfold accessCheck
  cases a.viaW15 with
  | none => exact addressRaised_of_same rfl rfl rfl
  | some wraps => exact addressRaised_raiseStackIf s _

/-- No store of an inhibited instruction happens (R100). -/
theorem accessStore_inhibited (a : DataAccess) : accessStore true a s = s := by
  simp [accessStore, cpuStoreWordIf, cpuStoreByteIf]

/-- An accumulator event sets MATHERR and its cause (R187). -/
theorem withinMask_accBits (e : AccEvent) : WithinMask (accBits s e) otherCauses := by
  cases e <;> exact withinMask_ite (by decide) withinMask_zero

/-- The `DO` level is bits 10:8 of CORCON (R27). -/
theorem getLsbD_withDl (w : Word) (level : BitVec 3) {i : Nat} (hi : i ∉ [8, 9, 10]) :
    (withDl w level).getLsbD i = w.getLsbD i := by
  by_cases hlt : i < 16
  · have outside : ∀ i < 16, i ∉ [8, 9, 10] → (0xF8FF#16).getLsbD i = true ∧
        ∀ level : BitVec 3, (level.setWidth 16 <<< 8).getLsbD i = false := by decide
    obtain ⟨hkept, hfield⟩ := outside i hlt hi
    rw [withDl, BitVec.getLsbD_or, BitVec.getLsbD_and, hkept, hfield, Bool.and_true, Bool.or_false]
  · rw [BitVec.getLsbD_of_ge _ _ (Nat.le_of_not_lt hlt), BitVec.getLsbD_of_ge _ _ (Nat.le_of_not_lt hlt)]

/-- A `DO` level that stays or is replaced leaves the other bits of CORCON alone. -/
theorem getLsbD_withDl_unless (stays : Prop) [Decidable stays] (w : Word) (level : BitVec 3) {i : Nat}
    (hi : i ∉ [8, 9, 10]) : (if stays then w else withDl w level).getLsbD i = w.getLsbD i := by
  split
  · rfl
  · exact getLsbD_withDl w level hi

/-- The CPU's own writes of SR leave IPL<2:0> alone (log entry 41). -/
theorem ipl_writeStatus (mask v : Word) : (writeStatus mask v s).ipl = s.ipl := by
  refine BitVec.eq_of_getLsbD_eq fun i hi => ?_
  have reserved : ∀ i < 3, (0xFF1F#16).getLsbD (5 + i) = false := by decide
  have inside : 5 + i < 16 := by omega
  simp [State.ipl, writeStatus, reserved i hi, hi, inside, -BitVec.getLsbD_eq_getElem]

theorem inhibitedTo_doLoop : InhibitedTo s (doLoop s) :=
  { inhibitedTo_refl s with
    frame := rfl
    intcon3 := ⟨_, withinMask_and_left (withinMask_ite (by decide) withinMask_zero), rfl⟩
    corcon := fun _ hi => by
      simp only [doLoop, raiseDoOverflowIf, raise3_corcon]
      exact getLsbD_withDl_unless _ _ _ (List.not_mem_of_not_mem_cons hi) }

theorem inhibitedTo_doEnd : InhibitedTo s (doEnd s) :=
  { inhibitedTo_refl s with
    frame := rfl
    corcon := fun _ hi => getLsbD_withDl_unless _ _ _ (List.not_mem_of_not_mem_cons hi) }

/-- Every effect of an inhibited instruction stays within `InhibitedTo` (R100, U9). -/
theorem inhibitedTo_applyEffect (e : CpuEffect) : InhibitedTo s (applyEffect true e s) := by
  cases e with
  | sfrWrite r mask v => exact inhibitedTo_refl s
  | w15Write v => exact { inhibitedTo_refl s with frame := rfl }
  | access a =>
    rw [applyEffect, accessStore_inhibited]
    exact (inhibitedTo_accessCheck s a).trans (inhibitedTo_raiseAddressIf _ _)
  | paged page => exact inhibitedTo_raiseAddressIf s _
  | macFetch y ea => exact inhibitedTo_raiseAddressIf s _
  | divide divisor => exact inhibitedTo_raise1 s (withinMask_ite (by decide) withinMask_zero)
  | sftac count => exact inhibitedTo_raise1 s (withinMask_ite (by decide) withinMask_zero)
  | doLoop => exact inhibitedTo_doLoop s
  | doEnd => exact inhibitedTo_doEnd s
  | acc e => exact inhibitedTo_raise1 s (withinMask_ite (withinMask_accBits s e) withinMask_zero)
  | status mask v =>
    exact { inhibitedTo_refl s with
      frame := rfl
      ipl := ipl_writeStatus _ _ _ }
  | stackFrame active =>
    have kept {i : Nat} (hi : i ∉ [2, 8, 9, 10]) (b : Bool) :
        (setBits s.corcon 0x0004#16 b).getLsbD i = s.corcon.getLsbD i :=
      getLsbD_setBits_twoPow (k := 2) (List.ne_of_not_mem_cons hi) _ b
    exact { inhibitedTo_refl s with
      frame := rfl
      corcon := fun _ hi => kept hi _ }

/-- An effect raises the address error trap exactly where it faults. -/
theorem addressRaised_applyEffect (e : CpuEffect) : AddressRaised (effectFaults s e) s (applyEffect true e s) := by
  cases e with
  | access a =>
    rw [applyEffect, accessStore_inhibited]
    exact (addressRaised_accessCheck s a).trans (addressRaised_raiseAddressIf _ _)
  | paged page => exact addressRaised_raiseAddressIf _ s
  | macFetch y ea => exact addressRaised_raiseAddressIf _ s
  | divide divisor => exact addressRaised_raise1 s (withinMask_ite (by decide) withinMask_zero)
  | sftac count => exact addressRaised_raise1 s (withinMask_ite (by decide) withinMask_zero)
  | acc e => exact addressRaised_raise1 s (withinMask_ite (withinMask_accBits s e) withinMask_zero)
  | _ => exact addressRaised_of_same rfl rfl rfl

end

/-! ## The instruction -/

/-- Whether an effect faults is asked of the device only. -/
theorem effectFaults_congr {s t : State} (h : t.dev = s.dev) : effectFaults t = effectFaults s := by
  funext e
  cases e <;> simp only [effectFaults, macBad, accessFaults, State.dataImpl, h]

theorem inhibitedTo_applyEffects (effects : List CpuEffect) (s : State) :
    InhibitedTo s (applyEffects true effects s) := by
  induction effects generalizing s with
  | nil => exact inhibitedTo_refl s
  | cons e t ih => exact (inhibitedTo_applyEffect s e).trans (ih _)

theorem addressRaised_applyEffects (effects : List CpuEffect) (s : State) :
    AddressRaised (effects.any (effectFaults s)) s (applyEffects true effects s) := by
  induction effects generalizing s with
  | nil => exact addressRaised_of_same rfl rfl rfl
  | cons e t ih =>
    have sameDevice : (applyEffect true e s).dev = s.dev :=
      (sameOutside_applyEffect (r := s) ⟨rfl, rfl, rfl⟩ true e).1
    have raised := (addressRaised_applyEffect s e).trans (ih _)
    rwa [effectFaults_congr sameDevice] at raised

theorem inhibitedTo_transfer (target : Option ProgAddr) (s : State) : InhibitedTo s (transfer target s) := by
  cases target with
  | none => exact inhibitedTo_refl s
  | some a => exact { inhibitedTo_refl s with frame := rfl }

theorem addressRaised_transfer (target : Option ProgAddr) (s : State) : AddressRaised false s (transfer target s) :=
  addressRaised_of_same (by rw [transfer_intcon1]) (transfer_hardEvents _ _) (transfer_hardHold _ _)

/-- An instruction outside the table that faults raises the address error trap and stays within `InhibitedTo`. -/
theorem execForeign_inhibited {f : Foreign} {s : State} (h : f.effects.any (effectFaults s) = true) :
    InhibitedTo s (execForeign f s) ∧ AddressRaised true s (execForeign f s) := by
  have raised := addressRaised_applyEffects f.effects s
  rw [execForeign, h]
  rw [h] at raised
  exact ⟨((inhibitedTo_applyEffects f.effects s).trans (inhibitedTo_raiseStackIf _ _)).trans
      (inhibitedTo_transfer _ _),
    (raised.trans (addressRaised_raiseStackIf _ _)).trans (addressRaised_transfer _ _)⟩

/-- Settles O35: the frame of an inhibited instruction, field by field. -/
theorem addressErrorInhibitsTheWrites : Obligations.AddressErrorInhibitsTheWrites := by
  intro f s t hfault ht
  obtain ⟨⟨frame, intcon1, intcon3, corcon, ipl⟩, raised⟩ := execForeign_inhibited hfault
  rw [← ht] at frame intcon1 intcon3 corcon ipl raised
  have noCause : ∀ i ∈ [0, 1, 5, 8, 9, 10, 15], (0x78DC#16).getLsbD i = false := by decide
  have flag : t.intcon1.getLsbD 3 = true := by rw [raised.flag, Bool.or_true]
  have event : t.hardEvents = { s.hardEvents with addr := true } := by rw [raised.event, Bool.or_true]
  have hold : t.hardHold = true := by rw [raised.hold, Bool.or_true]
  refine ⟨flag, event, hold, readByte_congr ?_, ?_, fun _ => intcon1.keeps_set,
    fun i hi => intcon1.keeps_outside (noCause i hi), intcon3.keeps_set,
    fun _ hi => intcon3.keeps_outside (getLsbD_twoPow_ne hi), ?_, ?_, ?_, ?_, ?_, ?_, ?_, ?_, ?_, ?_, ?_, ipl, corcon,
    ?_, ?_, ?_, ?_, ?_, ?_⟩
  all_goals rw [frame]

end Sys2Proof.Machine
end

section
/-!
SUPPORT. The decoder, said once: the rows of the opcode table (R113), what the decoder answers at each, and how each row
is written by the encoder (R114).  CERTIFICATES: the round trips and the words that no row matches (R115, R117).
-/

namespace Sys2Proof

/-! ## The rows of the opcode table -/

/-- The row of R113 that instruction `i` has, matched by these program words, with the operands of R114. -/
inductive TableRow : Instr → List ProgWord → Prop where
  | nop {w : ProgWord} (byte : topByte w = 0x00#8) : TableRow .nop [w]
  | goto {w w2 : ProgWord} {target : ProgAddr} (byte : topByte w = 0x04#8) (even : w.getLsbD 0 = false)
      (high : w2.extractLsb' 7 17 = 0#17) (operand : gotoTarget w w2 = target) : TableRow (.goto target) [w, w2]
  | ret : TableRow .ret [0x060000#24]
  | retfie : TableRow .retfie [0x064000#24]
  | bra {w : ProgWord} {slit16 : BitVec 16} (byte : topByte w = 0x37#8) (operand : w.extractLsb' 0 16 = slit16) :
      TableRow (.bra slit16) [w]
  | disi {w : ProgWord} {lit14 : BitVec 14} (high : w.extractLsb' 14 10 = 0x3F0#10)
      (operand : w.extractLsb' 0 14 = lit14) : TableRow (.disi lit14) [w]
  | reset : TableRow .reset [0xFE0000#24]
  | sleep : TableRow (.pwrsav .sleep) [0xFE4000#24]
  | idle : TableRow (.pwrsav .idle) [0xFE4001#24]

/-- The top byte of an instruction's first word (R115). -/
@[simp] def Instr.group : Instr → BitVec 8
  | .nop => 0x00#8
  | .goto _ => 0x04#8
  | .ret => 0x06#8
  | .retfie => 0x06#8
  | .bra _ => 0x37#8
  | .disi _ => 0xFC#8
  | .reset => 0xFE#8
  | .pwrsav _ => 0xFE#8

/-- The ten fixed bits of `DISI` are its top byte and two zeros. -/
theorem disi_high_iff (w : ProgWord) :
    w.extractLsb' 14 10 = 0x3F0#10 ↔ topByte w = 0xFC#8 ∧ w.extractLsb' 14 2 = 0#2 := by
  have fields : topByte w ++ w.extractLsb' 14 2 = w.extractLsb' 14 10 :=
    BitVec.extractLsb'_append_extractLsb'_eq_extractLsb' rfl
  rw [← fields]
  generalize topByte w = byte, w.extractLsb' 14 2 = zeros
  revert byte zeros
  decide

/-- The top byte of a row's first word selects the instruction group (R115). -/
theorem TableRow.topByte_eq {i : Instr} {w : ProgWord} {tail : List ProgWord} (row : TableRow i (w :: tail)) :
    topByte w = i.group := by
  cases row with
  | nop byte => exact byte
  | goto byte => exact byte
  | bra byte => exact byte
  | disi high => exact ((disi_high_iff w).mp high).1
  | _ => decide

/-! ## What the decoder answers -/

/-- A word outside the return group is neither that of `RETURN` nor that of `RETFIE` (R115). -/
theorem ne_return_of_topByte {w : ProgWord} (h : topByte w ≠ 0x06#8) : w ≠ 0x060000#24 ∧ w ≠ 0x064000#24 :=
  ⟨fun e => h (congrArg topByte e), fun e => h (congrArg topByte e)⟩

/-- The words of a row decode to its instruction, whatever follows them (R113). -/
theorem TableRow.decode_append {i : Instr} {words : List ProgWord} (row : TableRow i words) (rest : List ProgWord) :
    decode (words ++ rest) = .ok (i, rest) := by
  cases row with
  | nop byte => simp [decode, byte]
  | goto byte even high operand => simp [decode, byte, even, high, operand, -BitVec.getLsbD_eq_getElem]
  | @bra w _ byte operand =>
    obtain ⟨notRet, notRetfie⟩ := ne_return_of_topByte (w := w) (by rw [byte]; decide)
    simp [decode, byte, operand, notRet, notRetfie]
  | @disi w _ high operand =>
    have byte := ((disi_high_iff w).mp high).1
    obtain ⟨notRet, notRetfie⟩ := ne_return_of_topByte (w := w) (by rw [byte]; decide)
    simp [decode, byte, high, operand, notRet, notRetfie]
  | _ => rfl

/-- The decoder reads a row's words, or refuses the first word, or, where the first word is a `GOTO`'s, its second. -/
theorem decode_cons_cases (w : ProgWord) (rest : List ProgWord) :
    (∃ i words tail, TableRow i (w :: words) ∧ rest = words ++ tail ∧ decode (w :: rest) = .ok (i, tail)) ∨
    ((∃ i words, TableRow i (w :: words)) ∧
      (decode (w :: rest) = .error .truncated ∨
        ∃ w2 ∈ rest, decode (w :: rest) = .error (.gotoSecondWord w2))) ∨
    decode (w :: rest) = .error (.outsideTable w) := by
  have reads {i : Instr} {words tail : List ProgWord} (row : TableRow i (w :: words)) (hrest : rest = words ++ tail) :
      ∃ i words tail, TableRow i (w :: words) ∧ rest = words ++ tail ∧ decode (w :: rest) = .ok (i, tail) :=
    ⟨i, words, tail, row, hrest, hrest ▸ row.decode_append tail⟩
  by_cases hnop : topByte w = 0x00#8
  · exact .inl (reads (.nop hnop) rfl)
  by_cases hgoto : topByte w = 0x04#8
  · cases heven : w.getLsbD 0 with
    | true => exact .inr (.inr (by simp [decode, hgoto, heven, -BitVec.getLsbD_eq_getElem]))
    | false =>
      have first : ∃ i words, TableRow i (w :: words) := ⟨_, _, .goto (w2 := 0#24) hgoto heven (by decide) rfl⟩
      cases rest with
      | nil => exact .inr (.inl ⟨first, .inl (by simp [decode, hgoto, heven, -BitVec.getLsbD_eq_getElem])⟩)
      | cons w2 tail =>
        by_cases high : w2.extractLsb' 7 17 = 0#17
        · exact .inl (reads (.goto hgoto heven high rfl) rfl)
        · exact .inr (.inl ⟨first, .inr ⟨w2, List.mem_cons_self,
            by simp [decode, hgoto, heven, high, -BitVec.getLsbD_eq_getElem]⟩⟩)
  by_cases hret : w = 0x060000#24
  · subst hret
    exact .inl (reads .ret rfl)
  by_cases hretfie : w = 0x064000#24
  · subst hretfie
    exact .inl (reads .retfie rfl)
  by_cases hbra : topByte w = 0x37#8
  · exact .inl (reads (.bra hbra rfl) rfl)
  by_cases hdisi : w.extractLsb' 14 10 = 0x3F0#10
  · exact .inl (reads (.disi hdisi rfl) rfl)
  by_cases hreset : w = 0xFE0000#24
  · subst hreset
    exact .inl (reads .reset rfl)
  by_cases hsleep : w = 0xFE4000#24
  · subst hsleep
    exact .inl (reads .sleep rfl)
  by_cases hidle : w = 0xFE4001#24
  · subst hidle
    exact .inl (reads .idle rfl)
  · exact .inr (.inr (by simp [decode, hnop, hgoto, hret, hretfie, hbra, hdisi, hreset, hsleep, hidle]))

/-- What decodes begins with the words of a row. -/
theorem row_of_decode {ws rest : List ProgWord} {i : Instr} (h : decode ws = .ok (i, rest)) :
    ∃ words, TableRow i words ∧ ws = words ++ rest := by
  cases ws with
  | nil => cases h
  | cons w t =>
    rcases decode_cons_cases w t with ⟨j, words, tail, row, rfl, heq⟩ | ⟨-, heq | ⟨w2, -, heq⟩⟩ | heq <;>
      rw [heq] at h <;> cases h
    exact ⟨_, row, rfl⟩

/-- A first word that no row has is refused by name (R115, R117). -/
theorem decode_outsideTable {w : ProgWord} (h : ∀ i words, ¬ TableRow i (w :: words)) (rest : List ProgWord) :
    decode (w :: rest) = .error (.outsideTable w) := by
  rcases decode_cons_cases w rest with ⟨i, words, -, row, -⟩ | ⟨⟨i, words, row⟩, -⟩ | heq
  · exact absurd row (h i words)
  · exact absurd row (h i words)
  · exact heq

/-- A `GOTO` whose second word has a bit above bit 6 set is refused by the second word's name (R113). -/
theorem decode_gotoSecondWord {w w2 : ProgWord} (byte : topByte w = 0x04#8) (even : w.getLsbD 0 = false)
    (high : w2.extractLsb' 7 17 ≠ 0#17) (rest : List ProgWord) :
    decode (w :: w2 :: rest) = .error (.gotoSecondWord w2) := by
  simp [decode, byte, even, high, -BitVec.getLsbD_eq_getElem]

/-! ## The operand fields (R114) -/

theorem extractLsb'_one_of_clear {n : Nat} {x : BitVec n} {k : Nat} (h : x.getLsbD k = false) :
    x.extractLsb' k 1 = 0#1 := by
  refine BitVec.eq_of_getLsbD_eq fun j hj => ?_
  obtain rfl : j = 0 := by omega
  simpa [-BitVec.getLsbD_eq_getElem] using h

theorem gotoTarget_low (w w2 : ProgWord) : (gotoTarget w w2).extractLsb' 1 15 = w.extractLsb' 1 15 :=
  (BitVec.extractLsb'_append_eq_of_le (by decide)).trans BitVec.extractLsb'_append_eq_right

theorem gotoTarget_high (w w2 : ProgWord) : (gotoTarget w w2).extractLsb' 16 7 = w2.extractLsb' 0 7 :=
  (BitVec.extractLsb'_append_eq_of_le (by decide)).trans
    ((BitVec.extractLsb'_append_eq_of_le (by decide)).trans BitVec.extractLsb'_append_eq_right)

/-- The target of a `GOTO` has its bits 0 and 23 zero (R114). -/
theorem wellFormed_gotoTarget (w w2 : ProgWord) : (Instr.goto (gotoTarget w w2)).wellFormed = true := by
  have even : (gotoTarget w w2).getLsbD 0 = false := BitVec.getLsbD_append
  have low : (gotoTarget w w2).getLsbD 23 = false :=
    BitVec.getLsbD_append.trans (BitVec.getLsbD_append.trans BitVec.getLsbD_append)
  simp [Instr.wellFormed, targetEven, targetLow, even, low, -BitVec.getLsbD_eq_getElem]

/-- A program address is its bit 23, the two fields of a `GOTO` and its bit 0 (R114). -/
theorem progAddr_fields (a : ProgAddr) :
    (a.extractLsb' 23 1 ++ a.extractLsb' 16 7 ++ a.extractLsb' 1 15 ++ a.extractLsb' 0 1 : BitVec 24) = a := by
  rw [BitVec.extractLsb'_append_extractLsb'_eq_extractLsb' (start₂ := 23) (start₁ := 16) rfl,
    BitVec.extractLsb'_append_extractLsb'_eq_extractLsb' (start₂ := 16) (start₁ := 1) rfl,
    BitVec.extractLsb'_append_extractLsb'_eq_extractLsb' (start₂ := 1) (start₁ := 0) rfl]
  exact BitVec.extractLsb'_eq_self

/-- The first word of a `GOTO` is its top byte, the low field of the target and its bit 0 (R113). -/
theorem gotoFirst_fields (w : ProgWord) :
    (topByte w ++ w.extractLsb' 1 15 ++ w.extractLsb' 0 1 : BitVec 24) = w := by
  rw [topByte, BitVec.extractLsb'_append_extractLsb'_eq_extractLsb' (start₂ := 16) (start₁ := 1) rfl,
    BitVec.extractLsb'_append_extractLsb'_eq_extractLsb' (start₂ := 1) (start₁ := 0) rfl]
  exact BitVec.extractLsb'_eq_self

/-- A target with bits 0 and 23 zero is what its two words give back (R114). -/
theorem gotoTarget_encoded {target : ProgAddr} (even : target.getLsbD 0 = false) (low : target.getLsbD 23 = false) :
    gotoTarget (0x04#8 ++ target.extractLsb' 1 15 ++ 0#1) (0#17 ++ target.extractLsb' 16 7) = target := by
  have high : (0#17 ++ target.extractLsb' 16 7 : BitVec 24).extractLsb' 0 7 = target.extractLsb' 16 7 :=
    BitVec.extractLsb'_append_eq_right
  have mid : (0x04#8 ++ target.extractLsb' 1 15 ++ 0#1 : BitVec 24).extractLsb' 1 15 = target.extractLsb' 1 15 :=
    (BitVec.extractLsb'_append_eq_of_le (by decide)).trans BitVec.extractLsb'_append_eq_right
  have fields := progAddr_fields target
  rw [extractLsb'_one_of_clear even, extractLsb'_one_of_clear low] at fields
  rw [gotoTarget, high, mid]
  exact fields

/-! ## The rows and the encoder -/

/-- The encoder writes a row of the instruction (R113). -/
theorem row_encode {i : Instr} (h : i.wellFormed = true) : TableRow i (encode i) := by
  cases i with
  | nop => exact .nop (by decide)
  | goto target =>
    simp only [Instr.wellFormed, targetEven, targetLow, Bool.and_eq_true, Bool.not_eq_true'] at h
    obtain ⟨even, low⟩ := h
    refine .goto ?_ ?_ BitVec.extractLsb'_append_eq_left (gotoTarget_encoded even low)
    · exact (BitVec.extractLsb'_append_eq_of_le (by decide)).trans BitVec.extractLsb'_append_eq_left
    · exact BitVec.getLsbD_append
  | ret => exact .ret
  | retfie => exact .retfie
  | bra slit16 => exact .bra BitVec.extractLsb'_append_eq_left BitVec.extractLsb'_append_eq_right
  | disi lit14 => exact .disi BitVec.extractLsb'_append_eq_left BitVec.extractLsb'_append_eq_right
  | reset => exact .reset
  | pwrsav mode =>
    cases mode with
    | sleep => exact .sleep
    | idle => exact .idle

section
variable {i : Instr} {words : List ProgWord} (row : TableRow i words)
include row

theorem TableRow.wellFormed : i.wellFormed = true := by
  cases row with
  | goto _ _ _ operand => exact operand ▸ wellFormed_gotoTarget _ _
  | _ => rfl

theorem TableRow.length_eq : words.length = i.words := by cases row <;> rfl

/-- A row's words are those that the encoder writes; only `NOP` has don't-care bits (R113). -/
theorem TableRow.eq_encode : words = encode i ∨ (i = .nop ∧ ∃ w, words = [w] ∧ topByte w = 0x00#8) := by
  cases row with
  | nop byte => exact .inr ⟨rfl, _, rfl, byte⟩
  | @goto w w2 _ byte even high operand =>
    have first : (0x04#8 ++ w.extractLsb' 1 15 ++ 0#1 : BitVec 24) = w := by
      rw [← byte, ← extractLsb'_one_of_clear even]
      exact gotoFirst_fields w
    have second : (0#17 ++ w2.extractLsb' 0 7 : BitVec 24) = w2 := by
      rw [← high]
      exact BitVec.extractLsb'_append_extractLsb'
    subst operand
    rw [encode, gotoTarget_low, gotoTarget_high, first, second]
    exact .inl rfl
  | @bra w _ byte operand =>
    have word : (0x37#8 ++ w.extractLsb' 0 16 : BitVec 24) = w := by
      rw [← byte]
      exact BitVec.extractLsb'_append_extractLsb'
    subst operand
    rw [encode, word]
    exact .inl rfl
  | @disi w _ high operand =>
    have word : (0x3F0#10 ++ w.extractLsb' 0 14 : BitVec 24) = w := by
      rw [← high]
      exact BitVec.extractLsb'_append_extractLsb'
    subst operand
    rw [encode, word]
    exact .inl rfl
  | _ => exact .inl rfl

end

/-! ## The round trips -/

/-- Settles O1: the encoder writes a row of the instruction, and the words of a row decode to it. -/
theorem encodedInstructionDecodesToItself : Obligations.EncodedInstructionDecodesToItself :=
  fun _ rest h => (row_encode h).decode_append rest

/-- Settles O2: what decodes begins with a row's words, and a row's words are the encoder's. -/
theorem decodedWordsAreTheEncoding : Obligations.DecodedWordsAreTheEncoding := by
  intro ws rest i h
  obtain ⟨words, row, hws⟩ := row_of_decode h
  exact ⟨row.wellFormed, words, hws, row.length_eq, row.eq_encode⟩

/-! ## Words outside the table -/

/-- Settles O3: the top byte of a row's first word is its group's, so within a group only its own rows can match. -/
theorem otherWordsAreRejectedByName : Obligations.OtherWordsAreRejectedByName := by
  intro w rest
  refine ⟨fun hbyte => decode_outsideTable (fun i words row => ?otherGroup) rest,
    fun hbyte hodd => decode_outsideTable (fun i words row => ?oddGoto) rest,
    fun hbyte hret hretfie => decode_outsideTable (fun i words row => ?returnGroup) rest,
    fun hbyte hhigh => decode_outsideTable (fun i words row => ?disi) rest,
    fun hbyte hreset hsleep hidle => decode_outsideTable (fun i words row => ?controlGroup) rest,
    fun w2 hbyte heven hhigh => decode_gotoSecondWord hbyte heven hhigh rest⟩
  all_goals rw [row.topByte_eq] at hbyte
  case otherGroup => cases i <;> simp at hbyte
  case oddGoto =>
    cases row with
    | goto _ even _ _ => exact Bool.false_ne_true (even.symm.trans hodd)
    | _ => simp at hbyte
  case returnGroup =>
    cases row with
    | ret => exact hret rfl
    | retfie => exact hretfie rfl
    | _ => simp at hbyte
  case disi =>
    cases row with
    | disi high _ => exact hhigh ((disi_high_iff w).mp high).2
    | _ => simp at hbyte
  case controlGroup =>
    cases row with
    | reset => exact hreset rfl
    | sleep => exact hsleep rfl
    | idle => exact hidle rfl
    | _ => simp at hbyte

/-- Settles O4: the words evaluate. -/
theorem wordsWrittenFromTheTableDecode : Obligations.WordsWrittenFromTheTableDecode := by
  unfold Obligations.WordsWrittenFromTheTableDecode
  decide

/-- The decoder's refusal of a list of words names one of them (R115). -/
theorem refusedWord_mem {w : ProgWord} {rest : List ProgWord} {e : DecodeError} (h : decode (w :: rest) = .error e) :
    Machine.refusedWord w e ∈ w :: rest := by
  rcases decode_cons_cases w rest with ⟨i, words, tail, -, -, heq⟩ | ⟨-, heq | ⟨w2, hmem, heq⟩⟩ | heq <;>
    rw [heq] at h <;> cases h
  · exact List.mem_cons_self
  · exact List.mem_cons_of_mem w hmem
  · exact List.mem_cons_self

end Sys2Proof
end

section
/-!
SUPPORT. The fetch of a word outside the table, where the CPU is free to fetch (R161).  CERTIFICATES: such a word runs
as the inputs say, or is refused by name (R115, R117, N21).
-/

namespace Sys2Proof.Machine

/-- Where the CPU is free to fetch, the step fetches from the state at the boundary (R161 items 2 to 5). -/
theorem step_of_freeToFetch {s : State} (h : FreeToFetch s.atBoundary) :
    step s = fetchAndRun s.boundary (fetchState s.atBoundary) := by
  obtain ⟨noHard, running, noWinner⟩ := h
  have resolved : resolveHard s.boundary s.atBoundary = powered s.boundary s.atBoundary := by
    rw [resolveHard, noHard]
  rw [step, cycle, resolved, powered, if_pos running, arbitrate, noWinner]
  rfl

section
variable {b : Boundary} {s : State} {err : DecodeError} (h : decode (fetchWords s) = .error err)
include h

/-- Outside the table an instruction occupies one word, unless its first word is a `GOTO`'s or the inputs give it two
(R110, R113). -/
theorem fetchLength_of_error (hgoto : ∀ w, err ≠ .gotoSecondWord w)
    (hforeign : ∀ f, b.foreign = some f → f.twoWords = false) : fetchLength b s = 1 := by
  have length : fetchLength b s = (b.foreign.map Foreign.words).getD 1 := by
    rw [fetchLength, h]
    cases err with
    | gotoSecondWord w => exact absurd rfl (hgoto w)
    | _ => rfl
  rw [length]
  cases hb : b.foreign with
  | none => rfl
  | some f => simp [Foreign.words, hforeign f hb]

/-- The words of an instruction outside the table are implemented where the first one is, and the second one if it
occupies two. -/
theorem fetchable_of_error (hfirst : s.progImpl s.pc = true)
    (hsecond : (∃ w, err = .gotoSecondWord w) ∨ (∃ f, b.foreign = some f ∧ f.twoWords = true) →
      s.progImpl (s.pc + 2#24) = true) : fetchable b s = true := by
  rw [fetchable, hfirst, Bool.true_and, secondWordOk, Bool.or_eq_true, decide_eq_true_eq]
  by_cases two : (∃ w, err = .gotoSecondWord w) ∨ ∃ f, b.foreign = some f ∧ f.twoWords = true
  · exact .inr (hsecond two)
  · push Not at two
    obtain ⟨hgoto, hforeign⟩ := two
    rw [fetchLength_of_error h hgoto fun f hb => Bool.eq_false_iff.mpr (hforeign f hb)]
    exact .inl (by decide)

/-- A word outside the table that the inputs say nothing of is refused by name (R115, R117). -/
theorem fetchAndRun_refused (hwords : fetchable b s = true) (hb : b.foreign = none) :
    ∃ w ∈ fetchWords s, fetchAndRun b s = .refused (.outsideTable w) :=
  ⟨_, refusedWord_mem h, by rw [fetchAndRun, if_pos hwords, h, hb]⟩

/-- A word outside the table runs as the inputs say (N21). -/
theorem fetchAndRun_foreign {f : Foreign} (hwords : fetchable b s = true) (hb : b.foreign = some f) :
    fetchAndRun b s = .next (runForeign b.stalls f s) := by
  rw [fetchAndRun, if_pos hwords, h, hb]

end

/-- The program counter moves past the words of an instruction outside the table (R24). -/
theorem beginInstr_foreign (f : Foreign) (s : State) : beginInstr f.words s =
    { s with gieEff := s.intcon2.getLsbD 15, pc := s.pc + (if f.twoWords then 4#24 else 2#24) } := by
  rw [beginInstr, Foreign.words]
  cases f.twoWords <;> rfl

/-- Settles O10: the fetch of a word outside the table, without and with an instruction in the inputs. -/
theorem stepOnAWordOutsideTheTable : Obligations.StepOnAWordOutsideTheTable := by
  intro s err hfree hfirst hdecode
  have outside : decode (fetchWords (fetchState s.atBoundary)) = .error err := hdecode
  rw [step_of_freeToFetch hfree]
  constructor
  · intro hnone hsecond
    refine fetchAndRun_refused outside (fetchable_of_error outside hfirst ?_) hnone
    rintro (hgoto | ⟨f, hsome, -⟩)
    · exact hsecond hgoto
    · rw [hnone] at hsome
      cases hsome
  · intro f hsome hsecond
    have hwords : fetchable s.boundary (fetchState s.atBoundary) = true := by
      refine fetchable_of_error outside hfirst ?_
      rintro (hgoto | ⟨g, hg, htwo⟩)
      · exact hsecond (.inr hgoto)
      · obtain rfl : f = g := Option.some.inj (hsome.symm.trans hg)
        exact hsecond (.inl htwo)
    rw [fetchAndRun_foreign outside hwords hsome, runForeign, beginInstr_foreign]
    rfl

end Sys2Proof.Machine
end


section
/-!
SUPPORT. What the operations under the interrupt instructions leave, said once: the traps and the jump as whole states,
two pops from a readable stack (R90), the restored status (R130) and the register set of the restored level (R235).
-/

namespace Sys2Proof.Machine

/-! ## Traps as whole states -/

/-- The stack error trap sets STKERR, which every device implements, where `b` (R184). -/
theorem raiseStackIf_eq (b : Bool) (s : State) :
    raiseStackIf b s = { s with intcon1 := s.intcon1 ||| (if b then 0x0004#16 else 0#16) } :=
  raise1_implemented (withinMask_ite (withinMask_intcon1Impl _ (by decide)) withinMask_zero)

/-- The stack error trap of two checks is that of either. -/
theorem raiseStackIf_raiseStackIf (a b : Bool) (s : State) :
    raiseStackIf a (raiseStackIf b s) = raiseStackIf (b || a) s := by
  simp only [raiseStackIf_eq, BitVec.or_assoc]
  cases a <;> cases b <;> simp

/-- The address error trap sets ADDRERR and leaves a hard trap event (R200, R217). -/
theorem raiseAddressIf_true (s : State) : raiseAddressIf true s = { s with
    intcon1 := s.intcon1 ||| 0x0008#16
    hardEvents := { s.hardEvents with addr := true }
    hardHold := true } := by
  simp [raiseAddressIf]

/-- A jump to an implemented address writes the program counter and nothing else (R137, R138). -/
theorem jumpTo_implemented {target : ProgAddr} {s : State} (h : s.progImpl target = true) :
    jumpTo target s = { s with pc := target } := by
  rw [jumpTo, h]
  exact raiseAddressIf_false _

/-- A jump to an unimplemented address also raises the address error trap (R200 item d). -/
theorem jumpTo_unimplemented {target : ProgAddr} {s : State} (h : s.progImpl target = false) :
    jumpTo target s = { s with
      pc := target
      intcon1 := s.intcon1 ||| 0x0008#16
      hardEvents := { s.hardEvents with addr := true }
      hardHold := true } := by
  rw [jumpTo, h]
  exact raiseAddressIf_true _

/-- Twice the sign-extended offset is twice the signed offset, modulo the width of the program counter (R114). -/
theorem braTarget_eq (next : ProgAddr) (slit16 : BitVec 16) :
    braTarget next slit16 = BitVec.ofInt 24 ((next.toNat : Int) + 2 * slit16.toInt) := by
  rw [braTarget, BitVec.signExtend, BitVec.ofInt_add, BitVec.ofInt_mul, BitVec.ofInt_natCast, BitVec.ofNat_toNat,
    BitVec.setWidth_eq, BitVec.shiftLeft_eq_mul_twoPow, BitVec.mul_comm]
  rfl

/-! ## Two pops from a readable stack (R90, R130, R139) -/

/-- The state after two pops from a readable stack: W15 is down by 4, and STKERR is set where a stack limit is
violated. -/
def poppedTwice (s : State) : State :=
  { s with
    w15 := s.w15 - 4
    intcon1 := s.intcon1 ||| (if popsViolate s then 0x0004#16 else 0#16) }

/-- A read of a word looks at data space only. -/
theorem readWord_congr {s t : State} (h : t.data = s.data) (a : Word) : readWord t a = readWord s a := by
  rw [readWord, readWord, readByte_congr h, readByte_congr h]

/-- Both words of a readable stack are read as they stand in memory (R81, R86). -/
theorem pops_of_readable {s : State} (h : StackReadable s) :
    (popFaults s = false ∧ popValue s = readWord s (s.w15 - 2)) ∧
      popFaults (popState s) = false ∧ popValue (popState s) = readWord s (s.w15 - 4) := by
  obtain ⟨heven, hfirst, hsecond⟩ := h
  rw [sub_four] at hsecond ⊢
  have second := popValue_of_readable (s := popState s) ((bit0_sub_two _).trans heven) hsecond
  exact ⟨popValue_of_readable heven hfirst, second.1, second.2.trans (readWord_congr (popState_data s) _)⟩

/-- The floor check of the W15 that a pop leaves adds nothing to the checks of its address (R90 item a). -/
theorem popBad_or_floor (s : State) : (popBad s || decide (s.w15 - 2 < stackBase)) = popBad s := by
  rw [Bool.or_eq_left_iff_imp, decide_eq_true_iff, popBad_iff]
  exact .inl

/-- A pop of a readable word moves W15 and checks its address. -/
theorem popState_of_readable {s : State} (h : popFaults s = false) :
    popState s = raiseStackIf (popBad s) { s with w15 := s.w15 - 2 } := by
  have popped : popState s =
      raiseStackIf (decide (s.w15 - 2 < stackBase)) (raiseStackIf (popBad s) { s with w15 := s.w15 - 2 }) := by
    simp only [popState, h, raiseAddressIf_false]
    rfl
  rw [popped, raiseStackIf_raiseStackIf, popBad_or_floor]

/-- Two pops violate a stack limit exactly where the address of one of them violates a stack check. -/
theorem popBad_or_popBad (s : State) : (popBad s || popBad (popState s)) = popsViolate s := by
  rw [Bool.eq_iff_iff]
  refine ⟨fun h => ?_, popBad_of_popsViolate⟩
  have borrow (hlow : s.w15 < 2#16 ∨ s.w15 - 2 < 2#16) : s.w15 < 4#16 := by bv_omega
  rw [Bool.or_eq_true, popBad_iff, popBad_iff, popState_w15, popState_splim, popState_splimEnabled, ← sub_four] at h
  simp only [popsViolate, Bool.or_eq_true, Bool.and_eq_true, decide_eq_true_eq]
  rcases h with (hfloor | ⟨hon, hlimit⟩ | hlow) | (hfloor | ⟨hon, hlimit⟩ | hlow)
  · exact .inl (.inl (.inl hfloor))
  · exact .inl (.inr ⟨hon, .inl hlimit⟩)
  · exact .inr (borrow (.inl hlow))
  · exact .inl (.inl (.inr hfloor))
  · exact .inl (.inr ⟨hon, .inr hlimit⟩)
  · exact .inr (borrow (.inr hlow))

/-- Two pops from a readable stack and the floor check of the W15 that the instruction leaves. -/
theorem setSp_two_pops {s : State} (h : StackReadable s) :
    setSp (popState (popState s)).w15 (popState (popState s)) = poppedTwice s := by
  obtain ⟨⟨first, -⟩, second, -⟩ := pops_of_readable h
  have moved : ({ popState s with w15 := s.w15 - 4 } : State) =
      raiseStackIf (popBad s) { s with w15 := s.w15 - 4 } := by
    rw [popState_of_readable first]
    rfl
  have popped : popState (popState s) =
      raiseStackIf (popBad (popState s)) (raiseStackIf (popBad s) { s with w15 := s.w15 - 4 }) := by
    rw [popState_of_readable second, popState_w15, ← sub_four, moved]
  have floor : (popBad (popState s) || decide (s.w15 - 4 < stackBase)) = popBad (popState s) := by
    rw [sub_four]
    exact popBad_or_floor (popState s)
  calc setSp (popState (popState s)).w15 (popState (popState s))
      = raiseStackIf (decide (s.w15 - 4 < stackBase)) (popState (popState s)) := by rw [sub_four]; rfl
    _ = raiseStackIf (popsViolate s) { s with w15 := s.w15 - 4 } := by
        rw [popped, raiseStackIf_raiseStackIf, raiseStackIf_raiseStackIf, floor, popBad_or_popBad]
    _ = poppedTwice s := raiseStackIf_eq _ _

/-- `RETURN` on a readable stack (R139). -/
theorem returnFromCall_of_readable {s : State} (h : StackReadable s) : returnFromCall s =
    { poppedTwice s with pc := returnTarget s.dev (readWord s (s.w15 - 2)) (readWord s (s.w15 - 4)) } := by
  obtain ⟨⟨first, hi⟩, second, lo⟩ := pops_of_readable h
  rw [← hi, ← lo, ← setSp_two_pops h]
  simp only [returnFromCall, pop16, first, second, Bool.or_self, Bool.false_eq_true, if_false]
  rfl

/-- What `RETFIE` leaves on a readable stack, but for the program counter and the register set: the status of the frame
on top of the stack, with both words popped. -/
def poppedFrame (s : State) : State :=
  restoreStatus (readWord s (s.w15 - 2)) (readWord s (s.w15 - 4)) (poppedTwice s)

/-- `RETFIE` on a readable stack (R130, R235). -/
theorem returnFromException_of_readable {s : State} (h : StackReadable s) : returnFromException s =
    { useSet (returnSet (poppedFrame s).cpl (poppedFrame s)) (poppedFrame s) with
      pc := framePc (readWord s (s.w15 - 2)) (readWord s (s.w15 - 4)) } := by
  obtain ⟨⟨first, hi⟩, second, lo⟩ := pops_of_readable h
  rw [poppedFrame, ← hi, ← lo, ← setSp_two_pops h]
  simp only [returnFromException, pop16, first, second, Bool.or_self, Bool.false_eq_true, if_false]
  rfl

/-- The pops leave NSTDIS alone: they set STKERR at most. -/
theorem poppedFrame_nstdis (s : State) : (poppedFrame s).nstdis = s.nstdis := by
  have flag : (if popsViolate s then 0x0004#16 else 0#16).getLsbD 15 = false := by cases popsViolate s <;> rfl
  calc (poppedFrame s).nstdis
      = (s.intcon1 ||| (if popsViolate s then 0x0004#16 else 0#16)).getLsbD 15 := rfl
    _ = s.nstdis := by rw [BitVec.getLsbD_or, flag, Bool.or_false, State.nstdis]

/-! ## The restored status (R130) -/

theorem getLsbD_restoreStatus_srl (hi lo : Word) (s : State) {j : Nat} (hj : j < 8) :
    (restoreStatus hi lo s).sr.getLsbD j = hi.getLsbD (j + 8) := by
  have masked : ∀ j < 8, (0xFF00#16).getLsbD j = false := by decide
  rw [restoreStatus, BitVec.getLsbD_or, BitVec.getLsbD_and, masked j hj, BitVec.getLsbD_ushiftRight, Bool.and_false,
    Bool.false_or, Nat.add_comm]

theorem getLsbD_restoreStatus_sfa (hi lo : Word) (s : State) :
    (restoreStatus hi lo s).corcon.getLsbD 2 = lo.getLsbD 0 := by
  rw [restoreStatus, getLsbD_setBits]
  rfl

theorem getLsbD_restoreStatus_ipl3 (hi lo : Word) (s : State) :
    (restoreStatus hi lo s).corcon.getLsbD 3 = hi.getLsbD 7 := by
  rw [restoreStatus, getLsbD_setBits, getLsbD_setBits]
  rfl

/-- SRL comes from the frame, SR<15:8> stays. -/
theorem restoreStatus_sr (hi lo : Word) (s : State) :
    (restoreStatus hi lo s).sr = (s.sr.extractLsb' 8 8 ++ hi.extractLsb' 8 8 : BitVec 16) := by
  refine BitVec.eq_of_getLsbD_eq fun j hj => ?_
  rw [BitVec.getLsbD_append, BitVec.getLsbD_extractLsb', BitVec.getLsbD_extractLsb']
  by_cases hlow : j < 8
  · rw [getLsbD_restoreStatus_srl _ _ _ hlow, if_pos hlow, decide_eq_true hlow, Bool.true_and, Nat.add_comm]
  · have hback : 8 + (j - 8) = j := by omega
    rw [restoreStatus_sr_high _ _ _ (Nat.le_of_not_lt hlow), if_neg hlow, decide_eq_true (by omega), Bool.true_and,
      hback]

/-- IPL3 and SFA come from the frame, the rest of CORCON stays. -/
theorem restoreStatus_corcon (hi lo : Word) (s : State) : (restoreStatus hi lo s).corcon =
    (s.corcon.extractLsb' 4 12 ++ BitVec.ofBool (hi.getLsbD 7) ++ BitVec.ofBool (lo.getLsbD 0) ++
      s.corcon.extractLsb' 0 2 : BitVec 16) := by
  refine BitVec.eq_of_getLsbD_eq fun j hj => ?_
  simp only [BitVec.getLsbD_append, BitVec.getLsbD_extractLsb', BitVec.getLsbD_ofBool]
  rcases (by omega : j < 2 ∨ j = 2 ∨ j = 3 ∨ 4 ≤ j) with hlow | rfl | rfl | hhigh
  · rw [restoreStatus_corcon_other _ _ _ (by omega) (by omega)]
    simp [hlow]
  · exact getLsbD_restoreStatus_sfa hi lo s
  · exact getLsbD_restoreStatus_ipl3 hi lo s
  · have hback : 4 + (j - 2 - 1 - 1) = j := by omega
    rw [restoreStatus_corcon_other _ _ _ (by omega) (by omega), if_neg (by omega), if_neg (by omega),
      if_neg (by omega), decide_eq_true (by omega), Bool.true_and, hback]

/-- The CPU level that the frame restores (R130, R166). -/
theorem cpl_restoreStatus (hi lo : Word) (s : State) : (restoreStatus hi lo s).cpl =
    (BitVec.ofBool (hi.getLsbD 7) ++ hi.extractLsb' 13 3 : BitVec 4) := by
  have field : (restoreStatus hi lo s).ipl = hi.extractLsb' 13 3 := by
    refine BitVec.eq_of_getLsbD_eq fun j hj => ?_
    rw [State.ipl, BitVec.getLsbD_extractLsb', BitVec.getLsbD_extractLsb',
      getLsbD_restoreStatus_srl _ _ _ (by omega), Nat.add_right_comm]
  rw [State.cpl, State.ipl3, getLsbD_restoreStatus_ipl3, field]

/-! ## The register set of the restored level (R235) -/

/-- No CTXT field selects level 0 (R39). -/
theorem ctxLevel_ne_zero : ∀ f : BitVec 3, ctxLevel f ≠ some 0#4 := by decide

theorem matchingSet_alt1 {d : Device} {p : BitVec 4} (h1 : ctxLevel (Device.ctxt1 d) = some p)
    (h2 : ctxLevel (Device.ctxt2 d) ≠ some p) : matchingSet d p = some .alt1 := if_pos ⟨h1, h2⟩

theorem matchingSet_alt2 {d : Device} {p : BitVec 4} (h2 : ctxLevel (Device.ctxt2 d) = some p)
    (h1 : ctxLevel (Device.ctxt1 d) ≠ some p) : matchingSet d p = some .alt2 := by
  rw [matchingSet, if_neg fun h => h1 h.1, if_pos ⟨h2, h1⟩]

theorem useSet_wctx_without_altW {s : State} (h : s.dev.hasAltW = false) (choice : Option WSet) :
    (useSet choice s).wctx = .default := by
  rw [useSet, h]
  rfl

theorem useSet_wctx_some {s : State} (h : s.dev.hasAltW = true) (set : WSet) :
    (useSet (some set) s).wctx = set := by
  rw [useSet, h]
  rfl

/-- A return with nesting to the level of exactly one CTXT field selects the set of that field. -/
theorem returnSet_of_matching {s : State} {p : BitVec 4} {set : WSet} (hzero : p ≠ 0#4) (hnest : s.nstdis = false)
    (h : matchingSet s.dev p = some set) : returnSet p s = some set := by
  rw [returnSet, if_neg hzero, hnest]
  exact h

end Sys2Proof.Machine
end

section
/-!
SUPPORT. The frame of an exception entry (R225, R229): what its two words hold, that they are stored on a writable stack
and can be popped again, and which bits of SR and CORCON the entry leaves alone.
-/

namespace Sys2Proof.Machine

/-- The two words of a frame hold a program counter whose bits 23 and 0 are 0 (R23, R229). -/
theorem framePc_frame {s : State} (heven : s.pc.getLsbD 0 = false) (hlow : s.pc.getLsbD 23 = false) :
    framePc (frameHigh s) (frameLow s) = s.pc := by
  have bit {i : Nat} (h : s.pc.getLsbD i = false) : 0#1 = s.pc.extractLsb' i 1 := by
    refine BitVec.eq_of_getLsbD_eq fun j hj => ?_
    rw [Nat.lt_one_iff.mp hj, BitVec.getLsbD_extractLsb', Nat.add_zero, h]
    rfl
  have middle : (0#1 ++ s.pc.extractLsb' 16 7 ++ s.pc.extractLsb' 1 15 : BitVec 23) = s.pc.extractLsb' 1 23 := by
    rw [bit hlow, BitVec.extractLsb'_append_extractLsb'_eq_extractLsb' (by decide),
      BitVec.extractLsb'_append_extractLsb'_eq_extractLsb' (by decide)]
  calc framePc (frameHigh s) (frameLow s)
      = (0#1 ++ s.pc.extractLsb' 16 7 ++ s.pc.extractLsb' 1 15 ++ 0#1 : BitVec 24) := by
        rw [framePc, frameHigh, frameLow, BitVec.extractLsb'_append_eq_right, BitVec.extractLsb'_append_eq_left]
    _ = (s.pc.extractLsb' 1 23 ++ s.pc.extractLsb' 0 1 : BitVec 24) := by rw [middle, ← bit heven]
    _ = s.pc := by
        rw [BitVec.extractLsb'_append_extractLsb'_eq_extractLsb' (by decide)]
        exact BitVec.extractLsb'_eq_self

theorem getLsbD_frameLow_sfa (s : State) : (frameLow s).getLsbD 0 = s.corcon.getLsbD 2 := by
  rw [frameLow, BitVec.getLsbD_append, if_pos (by decide), BitVec.getLsbD_ofBool]
  rfl

theorem getLsbD_frameHigh_ipl3 (s : State) : (frameHigh s).getLsbD 7 = s.corcon.getLsbD 3 := by
  rw [frameHigh, BitVec.getLsbD_append, if_neg (by decide), BitVec.getLsbD_append, if_pos (by decide),
    BitVec.getLsbD_ofBool]
  rfl

theorem getLsbD_frameHigh_srl (s : State) {j : Nat} (hj : j < 8) : (frameHigh s).getLsbD (j + 8) = s.sr.getLsbD j := by
  have hback : j + 8 - 7 - 1 = j := by omega
  rw [frameHigh, BitVec.getLsbD_append, if_neg (by omega), BitVec.getLsbD_append, if_neg (by omega), hback,
    BitVec.getLsbD_extractLsb', decide_eq_true hj, Bool.true_and, Nat.zero_add]

/-- A source whose slot exists is taken through a slot (R164, U3). -/
theorem takeException_of_slotExists {x : Source} {s : State} (h : SlotExists x s) :
    ∃ slot, takeException x s = .next (enter x slot s) := by
  have found : ∃ slot, vectorSlot x s = some slot := by
    by_cases hx : x = .trap .dmac
    · unfold vectorSlot
      cases haux : s.inAuxFlash with
      | some f => exact ⟨_, rfl⟩
      | none =>
        have reserved : (s.useAivt && decide (x = .trap .dmac) && !s.dev.aivtDmacSlot) = false := by
          cases haivt : s.useAivt with
          | false => rfl
          | true => rw [h hx haux haivt, Bool.not_true, Bool.and_false]
        exact ⟨_, if_neg (Bool.eq_false_iff.mp reserved)⟩
    · exact vectorSlot_isSome hx s
  obtain ⟨slot, hslot⟩ := found
  exact ⟨slot, by rw [takeException, hslot]⟩

/-- On a writable stack both words of the frame are stored (R229). -/
theorem pushFrame_data_of_writable {s : State} (h : StackWritable s) : (pushFrame s).data =
    storeWord (storeWord s.data s.w15 (frameLow s)) (s.w15 + 2) (frameHigh s) := by
  obtain ⟨heven, hfirst, hsecond⟩ := h
  obtain ⟨quiet, lands⟩ := push16_lands heven hfirst
  obtain ⟨quiet', lands'⟩ := push16_lands (s := push16 (frameLow s) s) ((bit0_add_two _).trans heven) hsecond
  simp only [pushFrame, quiet, quiet', Bool.or_self, Bool.false_eq_true, if_false]
  rw [push16_data, lands', if_pos rfl, push16_data, lands, if_pos rfl]
  rfl

/-- After an entry on a writable stack the frame can be read back (R229). -/
theorem frame_after_enter {s : State} (h : StackWritable s) (x : Source) (slot : ProgAddr) :
    readWord (enter x slot s) (s.w15 + 2) = frameHigh s ∧ readWord (enter x slot s) s.w15 = frameLow s := by
  have stored : (enter x slot s).data =
      storeWord (storeWord s.data s.w15 (frameLow s)) (s.w15 + 2) (frameHigh s) :=
    (enter_data x slot s).trans (pushFrame_data_of_writable (s := { s with hardEvents := .none, hardHold := false }) h)
  refine ⟨readWord_of_storeWord _ _ _ _ stored, ?_⟩
  have apart : s.w15 ≠ s.w15 + 2 ∧ s.w15 ≠ s.w15 + 2 + 1 ∧ s.w15 + 1 ≠ s.w15 + 2 ∧ s.w15 + 1 ≠ s.w15 + 2 + 1 := by
    refine ⟨?_, ?_, ?_, ?_⟩ <;> bv_omega
  obtain ⟨hlow, hlow', hhigh, hhigh'⟩ := apart
  rw [← readWord_of_storeWord s.data s.w15 (frameLow s) { s with data := storeWord s.data s.w15 (frameLow s) } rfl,
    readWord, readWord, readByte_of_storeWord _ _ _ _ _ stored hlow hlow',
    readByte_of_storeWord _ _ _ _ _ stored hhigh hhigh']
  rfl

theorem add_four_sub_two (a : Word) : a + 4 - 2 = a + 2 := by bv_omega

/-- After an entry on a writable stack the two words it pushed can be popped. -/
theorem stackReadable_enter {s : State} (h : StackWritable s) (x : Source) (slot : ProgAddr) :
    StackReadable (enter x slot s) := by
  obtain ⟨heven, hfirst, hsecond⟩ := h
  have even : (s.w15 + 4).getLsbD 0 = false := by rw [← bit0_sub_two, add_four_sub_two, bit0_add_two, heven]
  rw [StackReadable, enter_w15, add_four_sub_two, BitVec.add_sub_cancel, State.dataImpl, State.dataImpl, enter_dev]
  exact ⟨even, hsecond, hfirst⟩

/-- The frame that `RETFIE` finds right after an entry on a writable stack (R130, R232). -/
theorem popped_words_enter {s : State} (h : StackWritable s) (x : Source) (slot : ProgAddr) :
    readWord (enter x slot s) ((enter x slot s).w15 - 2) = frameHigh s ∧
      readWord (enter x slot s) ((enter x slot s).w15 - 4) = frameLow s := by
  obtain ⟨hhigh, hlow⟩ := frame_after_enter h x slot
  rw [enter_w15, add_four_sub_two, BitVec.add_sub_cancel]
  exact ⟨hhigh, hlow⟩

/-- A new IPL leaves every bit outside the field alone. -/
theorem getLsbD_withIpl_other (w : Word) (v : BitVec 3) {j : Nat} (hj : j < 5 ∨ 8 ≤ j) :
    (withIpl w v).getLsbD j = w.getLsbD j := by
  by_cases hlt : j < 16
  · have kept : ∀ j < 16, j < 5 ∨ 8 ≤ j → (0xFF1F#16).getLsbD j = true := by decide
    have outside : (v.setWidth 16 <<< 5).getLsbD j = false := by
      rw [BitVec.getLsbD_shiftLeft, BitVec.getLsbD_setWidth]
      rcases hj with hlow | hhigh
      · simp [hlow]
      · simp [BitVec.getLsbD_of_ge v (j - 5) (by omega)]
    rw [withIpl, BitVec.getLsbD_or, BitVec.getLsbD_and, kept j hlt hj, outside, Bool.and_true, Bool.or_false]
  · rw [BitVec.getLsbD_of_ge _ _ (by omega), BitVec.getLsbD_of_ge _ _ (by omega)]

/-- The new level is written in IPL and no other bit of SR (R226). -/
theorem writeLevel_sr_other (x : Source) (l : BitVec 4) (s : State) {j : Nat} (hj : j < 5 ∨ 8 ≤ j) :
    (writeLevel x l s).sr.getLsbD j = s.sr.getLsbD j := by
  cases x with
  | trap t => exact getLsbD_withIpl_other _ _ hj
  | irq k => exact getLsbD_withIpl_other _ _ hj

/-- The new level is written in IPL3, SFA is cleared, and no other bit of CORCON changes (R226, R229). -/
theorem writeLevel_corcon_other (x : Source) (l : BitVec 4) (s : State) {j : Nat} (hsfa : j ≠ 2) (hipl3 : j ≠ 3) :
    (writeLevel x l s).corcon.getLsbD j = s.corcon.getLsbD j := by
  have cleared : (s.corcon &&& 0xFFFB#16).getLsbD j = s.corcon.getLsbD j := by
    have kept : ∀ j < 16, j ≠ 2 → (0xFFFB#16).getLsbD j = true := by decide
    rw [BitVec.getLsbD_and]
    by_cases hlt : j < 16
    · rw [kept j hlt hsfa, Bool.and_true]
    · rw [BitVec.getLsbD_of_ge s.corcon j (by omega), Bool.false_and]
  cases x with
  | trap t =>
    have other : (0x0008#16).getLsbD j = false := getLsbD_twoPow_ne hipl3
    rw [writeLevel, BitVec.getLsbD_or, cleared, other, Bool.or_false]
  | irq k => exact cleared

/-- An entry writes IPL and no other bit of SR (R226). -/
theorem enter_sr_other (x : Source) (slot : ProgAddr) (s : State) {j : Nat} (hj : j < 5 ∨ 8 ≤ j) :
    (enter x slot s).sr.getLsbD j = s.sr.getLsbD j := by
  simp only [enter, loadVector_sr, useSet_sr, latchInttreg_sr, writeLevel_sr_other _ _ _ hj, pushFrame_sr]

/-- An entry writes SFA and IPL3 and no other bit of CORCON (R226, R229). -/
theorem enter_corcon_other (x : Source) (slot : ProgAddr) (s : State) {j : Nat} (hsfa : j ≠ 2) (hipl3 : j ≠ 3) :
    (enter x slot s).corcon.getLsbD j = s.corcon.getLsbD j := by
  simp only [enter, loadVector_corcon, useSet_corcon, latchInttreg_corcon, writeLevel_corcon_other _ _ _ hsfa hipl3,
    pushFrame_corcon]

end Sys2Proof.Machine
end

section
/-!
CERTIFICATES. The interrupt instructions (R130 to R143): the whole effect of each instruction of the opcode table on
the state, `RETFIE` as the inverse of the exception entry, and DISICNT with its status bit and its count (R132 to R134).
-/

namespace Sys2Proof.Machine

/-! ## NOP, DISI, PWRSAV, GOTO, BRA and RESET -/

/-- Settles O12: each meaning is the stated record update. -/
theorem nopDisiAndPwrsav : Obligations.NopDisiAndPwrsav := fun _ => ⟨rfl, fun _ => rfl, rfl, rfl⟩

/-- Settles O13: the two cases of a jump. -/
theorem gotoLoadsTheProgramCounter : Obligations.GotoLoadsTheProgramCounter := fun _ _ =>
  ⟨fun himpl => congrArg Host.Outcome.next (jumpTo_implemented himpl),
    fun hno => congrArg Host.Outcome.next (jumpTo_unimplemented hno)⟩

/-- `BRA` jumps to the following instruction's address plus twice the signed offset (R138, R114). -/
theorem exec_bra (slit16 : BitVec 16) (s : State) : exec (.bra slit16) s =
    .next (jumpTo (BitVec.ofInt 24 ((s.pc.toNat : Int) + 2 * slit16.toInt)) s) := by
  rw [← braTarget_eq]
  rfl

/-- Settles O14: the target as a signed sum, and the two cases of a jump. -/
theorem braAddsTwiceTheSignedOffset : Obligations.BraAddsTwiceTheSignedOffset := by
  rintro slit16 s target rfl
  rw [exec_bra]
  exact ⟨fun himpl => congrArg Host.Outcome.next (jumpTo_implemented himpl),
    fun hno => congrArg Host.Outcome.next (jumpTo_unimplemented hno)⟩

/-- A device Reset leaves the values of R60, whatever its cause (R290). -/
theorem resetValues_deviceReset (cause : ResetCause) (s : State) : ResetValues (deviceReset cause s) :=
  { resetValues_resetOn s.dev with }

/-- Settles O18: a device Reset, and what it leaves to the outside world. -/
theorem resetInstructionResetsTheDevice : Obligations.ResetInstructionResetsTheDevice := fun s =>
  ⟨_, rfl, resetValues_deviceReset .software s, rfl, rfl, rfl, rfl, rfl, wf_memOfBytes _⟩

/-! ## RETURN and RETFIE -/

/-- Settles O15: two pops from a readable stack. -/
theorem returnPopsTheReturnAddress : Obligations.ReturnPopsTheReturnAddress := fun _ h =>
  congrArg Host.Outcome.next (returnFromCall_of_readable h)

/-- Settles O16: two pops from a readable stack, the restored status, and the register set of the restored level. -/
theorem retfieRestoresTheFrame : Obligations.RetfieRestoresTheFrame := by
  intro s h hi lo p
  have level : (poppedFrame s).cpl = p := cpl_restoreStatus hi lo _
  have status : (poppedFrame s).sr = (s.sr.extractLsb' 8 8 ++ hi.extractLsb' 8 8 : BitVec 16) :=
    restoreStatus_sr hi lo _
  have core : (poppedFrame s).corcon = (s.corcon.extractLsb' 4 12 ++ BitVec.ofBool (hi.getLsbD 7) ++
      BitVec.ofBool (lo.getLsbD 0) ++ s.corcon.extractLsb' 0 2 : BitVec 16) := restoreStatus_corcon hi lo _
  have effect := returnFromException_of_readable h
  rw [level] at effect
  have selected {set : WSet} (haltW : s.dev.hasAltW = true) (hset : returnSet p (poppedFrame s) = some set) :
      (useSet (returnSet p (poppedFrame s)) (poppedFrame s)).wctx = set := by
    rw [hset]
    exact useSet_wctx_some haltW set
  have nonzero {f : BitVec 3} (hf : ctxLevel f = some p) : p ≠ 0#4 := fun hp => ctxLevel_ne_zero f (hp ▸ hf)
  refine ⟨(useSet (returnSet p (poppedFrame s)) (poppedFrame s)).wctx,
    (useSet (returnSet p (poppedFrame s)) (poppedFrame s)).draws, ?_, ?_, ?_, ?_, ?_⟩
  · rw [← status, ← core]
    exact congrArg Host.Outcome.next effect
  · exact fun hno => useSet_wctx_without_altW hno _
  · exact fun haltW hzero => selected haltW (if_pos hzero)
  · exact fun haltW hnest h1 h2 => selected haltW
      (returnSet_of_matching (nonzero h1) ((poppedFrame_nstdis s).trans hnest) (matchingSet_alt1 h1 h2))
  · exact fun haltW hnest h2 h1 => selected haltW
      (returnSet_of_matching (nonzero h2) ((poppedFrame_nstdis s).trans hnest) (matchingSet_alt2 h2 h1))

/-- The status restored from the frame of an entry is the interrupted one (R232). -/
theorem poppedFrame_enter {s : State} (h : StackWritable s) (x : Source) (slot : ProgAddr) :
    (poppedFrame (enter x slot s)).sr = s.sr ∧ (poppedFrame (enter x slot s)).corcon = s.corcon := by
  obtain ⟨hhigh, hlow⟩ := popped_words_enter h x slot
  rw [poppedFrame, hhigh, hlow]
  constructor <;> refine BitVec.eq_of_getLsbD_eq fun j _ => ?_
  · by_cases hj : j < 8
    · rw [getLsbD_restoreStatus_srl _ _ _ hj, getLsbD_frameHigh_srl _ hj]
    · rw [restoreStatus_sr_high _ _ _ (Nat.le_of_not_lt hj)]
      exact enter_sr_other x slot s (.inr (Nat.le_of_not_lt hj))
  · by_cases hsfa : j = 2
    · rw [hsfa, getLsbD_restoreStatus_sfa, getLsbD_frameLow_sfa]
    · by_cases hipl3 : j = 3
      · rw [hipl3, getLsbD_restoreStatus_ipl3, getLsbD_frameHigh_ipl3]
      · rw [restoreStatus_corcon_other _ _ _ hsfa hipl3]
        exact enter_corcon_other x slot s hsfa hipl3

/-- Settles O55: the two words of the frame are read back, and each register is restored from them. -/
theorem retfieUndoesTheEntry : Obligations.RetfieUndoesTheEntry := by
  intro x s hstack hslot heven hlow
  obtain ⟨slot, htake⟩ := takeException_of_slotExists hslot
  obtain ⟨hi, lo⟩ := popped_words_enter hstack x slot
  obtain ⟨status, core⟩ := poppedFrame_enter hstack x slot
  refine ⟨_, _, htake, rfl, ?_⟩
  rw [returnFromException_of_readable (stackReadable_enter hstack x slot), hi, lo, framePc_frame heven hlow]
  refine ⟨rfl, ?_, ?_, ?_⟩
  · rw [useSet_sr, status]
  · rw [useSet_corcon, core]
  · rw [useSet_w15, poppedFrame, restoreStatus_w15, poppedTwice, enter_w15, BitVec.add_sub_cancel]

/-! ## DISICNT (R132 to R134) -/

/-- INTCON2 as software reads it has the expression of R134 at bit 14. -/
theorem readSfr_intcon2_disi (s : State) : (readSfr s .intcon2).getLsbD 14 = s.disiInEffect := by
  have unstored : (intcon2Impl s.dev).getLsbD 14 = false := by
    rw [Bool.eq_false_iff, ne_eq, getLsbD_intcon2Impl s.dev (by decide)]
    omega
  rw [readSfr, BitVec.getLsbD_or, BitVec.getLsbD_and, unstored, Bool.and_false, Bool.false_or]
  cases s.disiInEffect <;> rfl

/-- Which interrupts are eligible (R173), with the levels as numbers. -/
theorem eligibleIrq_iff (s : State) (k : Nat) : eligibleIrq s k = true ↔
    (s.dev.impl k = true ∧ s.flag k = true ∧ s.enable k = true) ∧ (s.gie = true ∨ s.gieEff = true) ∧
      s.cpl.toNat < (s.level k).toNat ∧ (s.disiInEffect = false ∨ s.level k = 7#3) := by
  have above : s.cpl < (s.level k).setWidth 4 ↔ s.cpl.toNat < (s.level k).toNat := by
    rw [BitVec.lt_def, BitVec.toNat_setWidth_of_le (by decide)]
  simp only [eligibleIrq, State.req, State.gieOn, Bool.and_eq_true, Bool.or_eq_true, Bool.not_eq_true',
    decide_eq_true_eq, above, and_assoc]

/-- Settles O20: the status bit and the eligibility, both by `State.disiInEffect`. -/
theorem disiStatusBitMirrorsTheCounter : Obligations.DisiStatusBitMirrorsTheCounter :=
  fun s => ⟨readSfr_intcon2_disi s, eligibleIrq_iff s⟩

/-- A word write of DISICNT asks for the low 14 bits of the written value (R133). -/
theorem disicntWritten_word (v : Word) (s : State) : disicntWritten 0xFFFF#16 v s = v.extractLsb' 0 14 := by
  have named : ∀ j < 14, (0xFFFF#16).getLsbD j = true ∧ (0x3FFF#16).getLsbD j = true := by decide
  refine BitVec.eq_of_getLsbD_eq fun j hj => ?_
  rw [disicntWritten, BitVec.getLsbD_setWidth, getLsbD_plainWrite, if_pos (named j hj), BitVec.getLsbD_extractLsb',
    Nat.zero_add]

/-- Settles O27: a write with and without `DISI` in effect, and a read. -/
theorem softwareWriteOfDisicnt : Obligations.SoftwareWriteOfDisicnt := by
  refine fun v s => ⟨fun hlive => ?_, fun hidle => ?_, ?_⟩
  · simp [swWrite, writeDisicnt, disicntWritten_word, hlive]
  · simp only [swWrite, writeDisicnt, disicntWritten_word, hidle, Bool.false_or, Bool.false_and]
    refine ⟨_, _, rfl, ?_⟩
    cases Config.freeBit s.draws with
    | true => exact .inr rfl
    | false => exact .inl rfl
  · exact BitVec.setWidth_eq_append (by decide)

/-- The effect of `DISI` lasts exactly while the count that is left is not 0 (R132). -/
theorem tick_disiActive (n : Nat) (s : State) :
    (tick n s).disiActive = (s.disiActive && decide ((tick n s).disicnt ≠ 0#14)) := by
  have left : n < s.disicnt.toNat ↔ (tick n s).disicnt ≠ 0#14 := by
    rw [ne_eq, ← BitVec.toNat_inj, tick_disicnt, BitVec.toNat_zero]
    omega
  rw [← decide_eq_decide.mpr left]
  rfl

/-- An entry leaves VAR alone (R226, R229). -/
theorem enter_var (x : Source) (slot : ProgAddr) (s : State) : (enter x slot s).var = s.var :=
  enter_corcon_other x slot s (by decide) (by decide)

/-- An exception process takes 13 cycles with VAR = 0 and 9 to 13 with VAR = 1, beside the stalls (R317). -/
theorem entryCycles_bounds (stalls : Nat) (s : State) :
    (s.var = false → entryCycles stalls s = 13 + stalls) ∧
      (s.var = true → 9 + stalls ≤ entryCycles stalls s ∧ entryCycles stalls s ≤ 13 + stalls) := by
  refine ⟨fun hvar => ?_, fun hvar => ?_⟩
  · simp [entryCycles, hvar]
  · rw [entryCycles, if_pos hvar]
    omega

/-- Settles O56: the count of n cycles, and the count of an entry's own cycles. -/
theorem cyclesCountDownDisicnt : Obligations.CyclesCountDownDisicnt := by
  refine ⟨fun n s => ⟨(tick n s).disicnt, ?_, tick_disicnt n s⟩, fun stalls x s t htake => ?_⟩
  · rw [← tick_disiActive]
    rfl
  · have counted : acknowledge stalls x s = .next (tickEntry stalls t) := by rw [acknowledge, htake]
    rcases takeException_cases x s with ⟨slot, -, heq⟩ | ⟨-, heq⟩ <;> rw [heq] at htake <;> cases htake
    have left := tick_disicnt (entryCycles stalls (enter x slot s)) (enter x slot s)
    have active := tick_disiActive (entryCycles stalls (enter x slot s)) (enter x slot s)
    have bounds := entryCycles_bounds stalls (enter x slot s)
    rw [enter_disicnt] at left
    rw [enter_disiActive] at active
    rw [enter_var] at bounds
    refine ⟨entryCycles stalls (enter x slot s), _, (tickEntry stalls (enter x slot s)).draws, ?_, left, bounds⟩
    rw [counted, ← active, ← enter_cycleCount x slot s]
    rfl

end Sys2Proof.Machine
end

section
/-!
CERTIFICATES. The trap causes of the arithmetic and of `DO` (R187 to R189, R196), the table of the traps (R180), and the
actions of the environment: the DMA controller, the USB module, the PLLs, the NVM controller, the oscillator, the pins.
-/

namespace Sys2Proof.Machine

/-! ## The flags of INTCON1: divide, accumulators (R187 to R189) -/

/-- A cause that names no bit sets nothing. -/
theorem raise1_zero (s : State) : raise1 0#16 s = s := by simp [raise1]

/-- DIV0ERR and MATHERR are implemented where the device keeps DIV0ERR (R29; log entry 12). -/
theorem withinMask_divide {d : Device} (h : d.hasDsp = true ∨ d.div0errWithoutDsp = true) :
    WithinMask 0x0050#16 (intcon1Impl d) := by
  rw [withinMask_iff]
  intro i hi
  have named : ∀ i < 16, (0x0050#16).getLsbD i = true → i = 4 ∨ i = 6 := by decide
  have hlt : i < 16 := BitVec.lt_of_getLsbD hi
  rw [getLsbD_intcon1Impl d i hlt]
  rcases named i hlt hi with rfl | rfl
  · omega
  · rcases h with hdsp | hdiv
    · exact .inr (.inl ⟨by decide, by decide, hdsp⟩)
    · exact .inr (.inr (.inl ⟨rfl, hdiv⟩))

/-- Where the device does not keep DIV0ERR, a zero divisor sets MATHERR alone. -/
theorem divideBits_without_div0err {d : Device} (hdsp : d.hasDsp = false) (hdiv : d.div0errWithoutDsp = false) :
    0x0050#16 &&& intcon1Impl d = 0x0010#16 := by
  rw [intcon1Impl, Device.hasDiv0err, hdsp, hdiv]
  cases d.hasDma <;> rfl

/-- Settles O30: a zero divisor with and without DIV0ERR, and any other divisor. -/
theorem divideByZeroSetsItsFlags : Obligations.DivideByZeroSetsItsFlags := by
  intro inhibited divisor s
  refine ⟨?_, ?_, fun hne => ?_⟩
  · rintro rfl himpl
    exact raise1_implemented (withinMask_divide himpl)
  · rintro rfl hdsp hdiv
    rw [← divideBits_without_div0err hdsp hdiv]
    rfl
  · rw [applyEffect, raiseDivideIf, decide_eq_false hne]
    exact raise1_zero s

/-- With accumulators bits 14 to 4 but DMACERR are implemented (R28). -/
theorem withinMask_accumulator {d : Device} (hdsp : d.hasDsp = true) {w : Word} (h : WithinMask w 0x7FD0#16) :
    WithinMask w (intcon1Impl d) := by
  rw [withinMask_iff] at *
  intro i hi
  have named : ∀ i < 16, (0x7FD0#16).getLsbD i = true → i = 4 ∨ 6 ≤ i ∧ i ≤ 14 := by decide
  have hlt : i < 16 := BitVec.lt_of_getLsbD hi
  rw [getLsbD_intcon1Impl d i hlt]
  rcases named i hlt (h i hi) with rfl | ⟨hlow, hhigh⟩
  · omega
  · exact .inr (.inl ⟨hlow, hhigh, hdsp⟩)

/-- With accumulators a cause of the accumulators sets all the bits it names, where it holds. -/
theorem raise1_accumulator {s : State} (hdsp : s.dev.hasDsp = true) (p : Prop) [Decidable p] {bits : Word}
    (h : WithinMask bits 0x7FD0#16) :
    raise1 (if p then bits else 0#16) s = { s with intcon1 := s.intcon1 ||| (if p then bits else 0#16) } := by
  refine raise1_implemented (withinMask_accumulator hdsp ?_)
  split
  · exact h
  · exact withinMask_zero

/-- With accumulators an event sets the bits of its row (R187). -/
theorem raiseAcc_with_dsp {s : State} (hdsp : s.dev.hasDsp = true) (e : AccEvent) :
    raiseAcc e s = raise1 (accBits s e) s := by
  rw [raiseAcc, hdsp]
  rfl

/-- The shift counts beyond 16 either way (R141). -/
theorem shiftBad_iff (count : Int) : shiftBad count = true ↔ 16 < count ∨ count < -16 := by
  rw [shiftBad, Bool.or_eq_true, decide_eq_true_iff, decide_eq_true_iff]

/-- Settles O31: each accumulator event, the shift, and a device without accumulators. -/
theorem accumulatorCausesSetTheirFlags : Obligations.AccumulatorCausesSetTheirFlags := by
  refine fun inhibited s => ⟨fun hdsp => ?_, fun hno => ⟨fun e => ?_, fun count => ?_⟩⟩
  · simp only [applyEffect, raiseAcc_with_dsp hdsp, accBits, raiseShiftIf, hdsp, Bool.and_true, shiftBad_iff]
    exact ⟨raise1_accumulator hdsp _ (by decide), raise1_accumulator hdsp _ (by decide),
      raise1_accumulator hdsp _ (by decide), raise1_accumulator hdsp _ (by decide),
      fun _ => raise1_accumulator hdsp _ (by decide)⟩
  · rw [applyEffect, raiseAcc, hno]
    exact raise1_zero s
  · rw [applyEffect, raiseShiftIf, hno, Bool.and_false]
    exact raise1_zero s

/-! ## The flags of INTCON3: `DO`, DMA, USB, PLLs, NVM (R192 to R197) -/

/-- A cause that names one flag of INTCON3 sets it where the device implements it. -/
theorem raise3_twoPow (k : Nat) (s : State) : raise3 (BitVec.twoPow 16 k) s = { s with
    intcon3 := s.intcon3 ||| (if (intcon3Impl s.dev).getLsbD k then BitVec.twoPow 16 k else 0#16) } := by
  rw [raise3, BitVec.twoPow_and]

theorem raise3_flag {k : Nat} {s : State} (h : (intcon3Impl s.dev).getLsbD k = true) :
    raise3 (BitVec.twoPow 16 k) s = { s with intcon3 := s.intcon3 ||| BitVec.twoPow 16 k } := by
  rw [raise3_twoPow, if_pos h]

/-- DOOVR is on every device (R33). -/
theorem raise3_doovr (s : State) : raise3 0x0010#16 s = { s with intcon3 := s.intcon3 ||| 0x0010#16 } :=
  raise3_flag (k := 4) ((getLsbD_intcon3Impl _ _ (by decide)).mpr (by omega))

/-- NAE is on every device (R33). -/
theorem raise3_nae (s : State) : raise3 0x0100#16 s = { s with intcon3 := s.intcon3 ||| 0x0100#16 } :=
  raise3_flag (k := 8) ((getLsbD_intcon3Impl _ _ (by decide)).mpr (by omega))

/-- DAE is on every device with a DMA controller (R33). -/
theorem raise3_dae {s : State} (h : s.dev.hasDma = true) :
    raise3 0x0020#16 s = { s with intcon3 := s.intcon3 ||| 0x0020#16 } :=
  raise3_flag (k := 5) ((getLsbD_intcon3Impl _ _ (by decide)).mpr (by simp [h]))

/-- UAE is on every device with a USB module (R33). -/
theorem raise3_uae {s : State} (h : s.dev.hasUsb = true) :
    raise3 0x0040#16 s = { s with intcon3 := s.intcon3 ||| 0x0040#16 } :=
  raise3_flag (k := 6) ((getLsbD_intcon3Impl _ _ (by decide)).mpr (by simp [h]))

/-- USBPLL is on every device with a USB module, and on no other (R33; log entry 11). -/
theorem raise3_usbpll (s : State) :
    raise3 0x0002#16 s = { s with intcon3 := s.intcon3 ||| (if s.dev.hasUsb then 0x0002#16 else 0#16) } := by
  have implemented : (intcon3Impl s.dev).getLsbD 1 = s.dev.hasUsb := by
    rw [Bool.eq_iff_iff, getLsbD_intcon3Impl _ 1 (by decide)]
    simp
  rw [← implemented]
  exact raise3_twoPow 1 s

/-- APLL is on every device with an auxiliary PLL, and on no other (R33). -/
theorem raise3_apll (s : State) :
    raise3 0x0001#16 s = { s with intcon3 := s.intcon3 ||| (if s.dev.hasApll then 0x0001#16 else 0#16) } := by
  have implemented : (intcon3Impl s.dev).getLsbD 0 = s.dev.hasApll := by
    rw [Bool.eq_iff_iff, getLsbD_intcon3Impl _ 0 (by decide)]
    simp
  rw [← implemented]
  exact raise3_twoPow 0 s

/-- A new `DO` level is read back (R27). -/
theorem dl_withDl (w : Word) (level : BitVec 3) : (withDl w level).extractLsb' 8 3 = level := by
  refine BitVec.eq_of_getLsbD_eq fun i hi => ?_
  have cleared : ∀ i < 3, (0xF8FF#16).getLsbD (8 + i) = false := by decide
  have placed : (level.setWidth 16 <<< 8).getLsbD (8 + i) = level.getLsbD i := by
    have inside : 8 + i < 16 := by omega
    have low : i < 16 := by omega
    simp [BitVec.getLsbD_shiftLeft, inside, low, -BitVec.getLsbD_eq_getElem]
  rw [BitVec.getLsbD_extractLsb', decide_eq_true hi, Bool.true_and, withDl, BitVec.getLsbD_or, BitVec.getLsbD_and,
    cleared i hi, placed, Bool.and_false, Bool.false_or]

/-- A `DO` with the DO stack full raises DOOVR (R196). -/
theorem doLoop_full {s : State} (h : 4 ≤ s.dl.toNat) : doLoop s = { s with intcon3 := s.intcon3 ||| 0x0010#16 } := by
  have full : 4#3 ≤ s.dl := h
  rw [doLoop, decide_eq_true full]
  exact raise3_doovr s

/-- A `DO` below the top level nests one level deeper (R142). -/
theorem doLoop_nests {s : State} (h : s.dl.toNat < 4) :
    doLoop s = { s with corcon := withDl s.corcon (s.dl + 1#3) } := by
  have room : ¬ 4#3 ≤ s.dl := Nat.not_le_of_lt h
  rw [doLoop, decide_eq_false room]
  simp [raiseDoOverflowIf, raise3]

/-- Settles O32: the full DO stack and the nested level. -/
theorem doStackOverflow : Obligations.DoStackOverflow := by
  refine fun _ s => ⟨fun hfull => doLoop_full (by rw [hfull]; decide), fun hroom =>
    ⟨_, doLoop_nests hroom, dl_withDl _ _, fun i hi => getLsbD_withDl _ _ ?_⟩⟩
  simp only [List.mem_cons, List.not_mem_nil, or_false]
  omega

/-- Settles O36: the accesses of a device with a DMA controller, and a device without one. -/
theorem dmaAddressError : Obligations.DmaAddressError := by
  refine fun a v c s => ⟨fun hdma hno => ?_, fun _ himpl => ?_, fun hnone => ?_⟩
  · simp only [act, dmaWrite, hdma, hno, Bool.not_false, Bool.and_self, if_true, raise3_dae hdma, and_self]
  · simp [act, himpl]
  · simp [act, hnone]

/-- A Buffer Descriptor Table has an unimplemented byte (R194). -/
theorem bdtBad_iff (s : State) (start : BitVec 32) : bdtBad s start = true ↔
    ∃ i < 512, 0xFFFF < start.toNat + i ∨ inRanges s.dev.dataRanges (start.toNat + i) = false := by
  simp [bdtBad]

/-- Settles O38: the USB module's accesses and its PLL, then the other agents. -/
theorem usbOscillatorPllAndNvmActions : Obligations.UsbOscillatorPllAndNvmActions := by
  refine fun start a v cf s => ⟨fun husb => ⟨fun hbad => ?_, fun hgood => ?_, fun hno => ?_, fun himpl => ?_, ?_⟩,
    fun hnone => ?_, raise3_apll s, raise3_nae s, rfl, rfl⟩
  · simp only [act, husb, (bdtBad_iff s start).mpr hbad, Bool.and_self, if_true, raise3_uae husb]
  · have fine : bdtBad s start = false := by
      rw [Bool.eq_false_iff, ne_eq, bdtBad_iff]
      rintro ⟨i, hi, hhigh | hno⟩
      · exact Nat.not_lt_of_le (hgood i hi).1 hhigh
      · rw [(hgood i hi).2] at hno
        cases hno
    simp [act, fine]
  · simp only [act, usbWrite, husb, hno, Bool.not_false, Bool.and_self, if_true, raise3_uae husb, and_self]
  · refine ⟨by simp [act, himpl], storeByte s.data a v, by simp [act, usbWrite, husb, himpl], fun b => ?_⟩
    exact memRead_storeByte s.data a b v
  · rw [act, raise3_usbpll, husb]
    rfl
  · simp [act, hnone, raise3_usbpll]

/-! ## The table of the traps (R180) -/

/-- A word within a mask is not 0 exactly where one of the mask's bits is 1 in it. -/
theorem and_ne_zero_iff (w m : Word) : w &&& m ≠ 0#16 ↔ ∃ i < 16, w.getLsbD i = true ∧ m.getLsbD i = true := by
  rw [ne_eq, BitVec.eq_of_getLsbD_eq_iff]
  simp

/-- The generic soft trap is requested while an implemented bit of INTCON3 is 1 (R192). -/
theorem trapFlag_genericSoft (s : State) : s.trapFlag .genericSoft =
    (s.intcon3.getLsbD 8 || s.intcon3.getLsbD 4 || (s.dev.hasDma && s.intcon3.getLsbD 5) ||
      (s.dev.hasUsb && (s.intcon3.getLsbD 6 || s.intcon3.getLsbD 1)) ||
      (s.dev.hasApll && s.intcon3.getLsbD 0)) := by
  rw [Bool.eq_iff_iff, State.trapFlag, decide_eq_true_iff, and_ne_zero_iff]
  simp only [Bool.or_eq_true, Bool.and_eq_true]
  constructor
  · rintro ⟨i, hi, hset, himpl⟩
    rcases (getLsbD_intcon3Impl _ i hi).mp himpl with rfl | rfl | ⟨rfl | rfl, hunit⟩ | ⟨rfl, hunit⟩ | ⟨rfl, hunit⟩ <;>
      simp only [*, and_self, true_or, or_true]
  · intro h
    have witness (i : Nat) (hi : i < 16) (hset : s.intcon3.getLsbD i = true) (himpl) :
        ∃ i < 16, s.intcon3.getLsbD i = true ∧ (intcon3Impl s.dev).getLsbD i = true :=
      ⟨i, hi, hset, (getLsbD_intcon3Impl _ i hi).mpr himpl⟩
    rcases h with (((h | h) | ⟨hdma, h⟩) | ⟨husb, h | h⟩) | ⟨hapll, h⟩
    · exact witness 8 (by decide) h (by omega)
    · exact witness 4 (by decide) h (by omega)
    · exact witness 5 (by decide) h (by simp [hdma])
    · exact witness 6 (by decide) h (by simp [husb])
    · exact witness 1 (by decide) h (by simp [husb])
    · exact witness 0 (by decide) h (by simp [hapll])

/-- The DMAC error trap is requested while DMACERR is 1, on a device with a DMA controller (R191). -/
theorem trapFlag_dmac (s : State) : s.trapFlag .dmac = (s.dev.hasDma && s.intcon1.getLsbD 5) := by
  have implemented : (intcon1Impl s.dev).getLsbD 5 = s.dev.hasDma := by
    rw [Bool.eq_iff_iff, getLsbD_intcon1Impl _ 5 (by decide)]
    simp
  rw [State.trapFlag, BitVec.getLsbD_and, implemented, Bool.and_comm]

/-- Settles O41: the rows of the table, the two generic requests and the vector numbers of the sources. -/
theorem trapTable : Obligations.TrapTable :=
  ⟨fun s => ⟨⟨rfl, rfl, rfl, rfl⟩, ⟨rfl, rfl, rfl, rfl⟩, ⟨rfl, rfl, rfl, rfl⟩, ⟨rfl, rfl, rfl, rfl⟩,
    ⟨rfl, rfl, rfl, rfl⟩, ⟨rfl, rfl, rfl, trapFlag_dmac s⟩, ⟨rfl, rfl, rfl, trapFlag_genericSoft s⟩⟩,
    fun _ => rfl, fun _ => rfl⟩

/-! ## The pins (R240) -/

/-- The sample of the pins below `n`, in order. -/
def samplePinsBelow (levels : BitVec 5) : Nat → State → State
  | 0, s => s
  | n + 1, s => samplePin levels n (samplePinsBelow levels n s)

/-- The sample of the pins is that of the pins below 5, with their levels kept. -/
theorem samplePins_eq (levels : BitVec 5) (s : State) :
    samplePins levels s = { samplePinsBelow levels 5 s with pinprev := levels } := rfl

/-- Pin i, of those the device has, is wired to vector k and shows the edge its polarity selects (R240). -/
def PinRequests (s : State) (levels : BitVec 5) (i k : Nat) : Prop :=
  i < s.dev.nextint ∧ s.dev.extIrq[i]? = some k ∧ pinEdge s levels i = true

/-- The sample of one pin changes the flags and nothing else. -/
theorem samplePin_frame (levels : BitVec 5) (i : Nat) (s : State) :
    samplePin levels i s = { s with ifs := (samplePin levels i s).ifs } := by
  rw [samplePin]
  split
  · cases s.dev.extIrq[i]? <;> rfl
  · rfl

theorem samplePinsBelow_frame (levels : BitVec 5) (n : Nat) (s : State) :
    samplePinsBelow levels n s = { s with ifs := (samplePinsBelow levels n s).ifs } := by
  induction n with
  | zero => rfl
  | succ n ih =>
    have last := samplePin_frame levels n (samplePinsBelow levels n s)
    rw [samplePinsBelow]
    generalize (samplePin levels n (samplePinsBelow levels n s)).ifs = b at last ⊢
    rw [last, ih]

/-- The sample of one pin sets the flag of its vector where the pin requests it (R240). -/
theorem flag_samplePin (levels : BitVec 5) (i : Nat) (s : State) (k : Nat) :
    (samplePin levels i s).flag k = true ↔
      s.flag k = true ∨ (s.dev.impl k = true ∧ PinRequests s levels i k) := by
  rw [samplePin, PinRequests]
  split
  case isTrue h =>
    rw [Bool.and_eq_true, decide_eq_true_iff] at h
    cases hvector : s.dev.extIrq[i]? with
    | none => simp
    | some v =>
      rw [flag_setFlag]
      simp only [h.1, h.2, Option.some.injEq, true_and, and_true]
      exact or_congr_right ⟨by rintro ⟨rfl, himpl⟩; exact ⟨himpl, rfl⟩, by rintro ⟨himpl, rfl⟩; exact ⟨rfl, himpl⟩⟩
  case isFalse h =>
    rw [Bool.and_eq_true, decide_eq_true_iff] at h
    exact (or_iff_left fun hpin => h ⟨hpin.2.1, hpin.2.2.2⟩).symm

/-- The sample of the pins below `n` sets the flags of those that request them. -/
theorem flag_samplePinsBelow (levels : BitVec 5) (n : Nat) (s : State) (k : Nat) :
    (samplePinsBelow levels n s).flag k = true ↔
      s.flag k = true ∨ (s.dev.impl k = true ∧ ∃ i < n, PinRequests s levels i k) := by
  induction n with
  | zero => simp [samplePinsBelow]
  | succ n ih =>
    have sameDevice : (samplePinsBelow levels n s).dev = s.dev := by rw [samplePinsBelow_frame]
    have samePin : PinRequests (samplePinsBelow levels n s) levels n k ↔ PinRequests s levels n k := by
      rw [samplePinsBelow_frame]
      rfl
    rw [samplePinsBelow, flag_samplePin, ih, sameDevice, samePin, or_assoc, ← and_or_left]
    simp only [Nat.exists_lt_succ_right]

/-- The edge that a pin's polarity selects, bit by bit (R240). -/
theorem pinEdge_iff (s : State) (levels : BitVec 5) (i : Nat) : pinEdge s levels i = true ↔
    (s.intcon2.getLsbD i = false ∧ s.pinprev.getLsbD i = false ∧ levels.getLsbD i = true) ∨
      (s.intcon2.getLsbD i = true ∧ s.pinprev.getLsbD i = true ∧ levels.getLsbD i = false) := by
  rw [pinEdge, State.negativeEdge]
  cases s.intcon2.getLsbD i <;> simp

/-- Settles O39: the sample of the pins one by one. -/
theorem pinEdgesSetTheirFlags : Obligations.PinEdgesSetTheirFlags := by
  intro levels s
  refine ⟨(samplePinsBelow levels 5 s).ifs, ?_, fun k => ?_⟩
  · rw [samplePins_eq]
    generalize hb : (samplePinsBelow levels 5 s).ifs = b
    rw [samplePinsBelow_frame, hb]
  · have sampled := flag_samplePinsBelow levels 5 s k
    simp only [PinRequests, pinEdge_iff] at sampled
    exact sampled

end Sys2Proof.Machine
end

section
/-!
CERTIFICATES. The arbitration (R168 to R175): which exception is presented, and what the masks keep back.  The vector
slots (R162 to R165): which slot a source has, and that no two sources share one.
-/

namespace Sys2Proof.Machine

/-! ## The trap presented (R216) -/

/-- Which traps are eligible (R181), with the levels as numbers. -/
theorem eligibleTrap_iff (s : State) (t : Trap) : eligibleTrap s t = true ↔
    s.trapFlag t = true ∧ s.cpl.toNat < (t.level s.dev).toNat := by
  rw [eligibleTrap, Bool.and_eq_true, decide_eq_true_iff, BitVec.lt_def]

/-- The levels of the traps are all different, and fall in the order of arbitration (R180). -/
theorem trapsByLevel_falling (d : Device) :
    trapsByLevel.Pairwise fun t u => (u.level d).toNat < (t.level d).toNat := by
  simp only [trapsByLevel, Trap.level]
  generalize d.gstAtEight = atEight
  cases atEight <;> decide

/-- The trap presented has the highest level of all eligible ones. -/
theorem bestTrap_highest {s : State} {t u : Trap} (h : bestTrap s = some t) (hne : u ≠ t)
    (hu : eligibleTrap s u = true) : (u.level s.dev).toNat < (t.level s.dev).toNat := by
  obtain ⟨-, before, after, order, skipped⟩ := List.find?_eq_some_iff_append.mp h
  have falling := trapsByLevel_falling s.dev
  have listed := mem_trapsByLevel u
  rw [order] at falling listed
  rcases List.mem_append.mp listed with hbefore | hafter
  · simpa [hu] using skipped u hbefore
  · have below := (List.pairwise_cons.mp (List.pairwise_append.mp falling).2.1).1
    exact below u ((List.mem_cons.mp hafter).resolve_left hne)

/-- The trap presented is the eligible one above all others (R173). -/
theorem bestTrap_iff (s : State) (t : Trap) : bestTrap s = some t ↔
    eligibleTrap s t = true ∧
      ∀ u, u ≠ t → eligibleTrap s u = true → (u.level s.dev).toNat < (t.level s.dev).toNat := by
  refine ⟨fun h => ⟨bestTrap_eligible h, fun u => bestTrap_highest h⟩, fun ⟨heligible, hhighest⟩ => ?_⟩
  cases hbest : bestTrap s with
  | none =>
    rw [(bestTrap_none s).mp hbest t] at heligible
    cases heligible
  | some u =>
    by_cases hut : u = t
    · rw [hut]
    · have below := hhighest u hut (bestTrap_eligible hbest)
      have above := bestTrap_highest hbest (Ne.symm hut) heligible
      exact absurd below (Nat.lt_asymm above)

/-! ## The interrupt presented (R172) -/

/-- An interrupt that does not go before another has a lower level, or the same level and a higher number. -/
theorem not_goesBefore_iff {s : State} {j k : Nat} (hne : j ≠ k) : goesBefore s j k = false ↔
    (s.level j).toNat < (s.level k).toNat ∨ ((s.level j).toNat = (s.level k).toNat ∧ k < j) := by
  rw [Bool.eq_false_iff, ne_eq, goesBefore_iff, BitVec.lt_def, ← BitVec.toNat_inj]
  omega

/-- The interrupt chosen is the eligible one that goes before all others (R172). -/
theorem bestIrq_iff (s : State) (k : Nat) : bestIrq s (pendingVectors s) = some k ↔
    eligibleIrq s k = true ∧ ∀ j, j ≠ k → eligibleIrq s j = true → (s.level j).toNat < (s.level k).toNat ∨
      ((s.level j).toNat = (s.level k).toNat ∧ k < j) := by
  have before {b j : Nat} (h : bestIrq s (pendingVectors s) = some b) (hne : j ≠ b) (hj : eligibleIrq s j = true) :
      (s.level j).toNat < (s.level b).toNat ∨ ((s.level j).toNat = (s.level b).toNat ∧ b < j) :=
    (not_goesBefore_iff hne).mp ((bestIrq_some h).2.2 j (req_mem_pendingVectors (eligibleIrq_req hj)) hj)
  refine ⟨fun h => ⟨(bestIrq_some h).2.1, fun j => before h⟩, fun ⟨heligible, hfirst⟩ => ?_⟩
  cases hbest : bestIrq s (pendingVectors s) with
  | none =>
    rw [(bestIrq_none s _).mp hbest k (req_mem_pendingVectors (eligibleIrq_req heligible))] at heligible
    cases heligible
  | some b =>
    by_cases hbk : b = k
    · rw [hbk]
    · have forth := hfirst b hbk (bestIrq_some hbest).2.1
      have back := before hbest (Ne.symm hbk) heligible
      omega

/-- No interrupt is chosen exactly where none is eligible. -/
theorem bestIrq_pending_none (s : State) :
    bestIrq s (pendingVectors s) = none ↔ ∀ k, eligibleIrq s k = false := by
  rw [bestIrq_none]
  refine ⟨fun h k => Bool.eq_false_iff.mpr fun hk => ?_, fun h k _ => h k⟩
  rw [h k (req_mem_pendingVectors (eligibleIrq_req hk))] at hk
  cases hk

/-! ## The winner (R173) -/

theorem winner_trap_iff (s : State) (t : Trap) : winner s = some (.trap t) ↔ bestTrap s = some t := by
  rcases winner_cases s with ⟨u, hbest, hwin⟩ | ⟨hbest, k, -, hwin⟩ | ⟨hbest, -, hwin⟩ <;> simp [hbest, hwin]

theorem winner_irq_iff (s : State) (k : Nat) :
    winner s = some (.irq k) ↔ bestTrap s = none ∧ bestIrq s (pendingVectors s) = some k := by
  rcases winner_cases s with ⟨u, hbest, hwin⟩ | ⟨hbest, j, hirq, hwin⟩ | ⟨hbest, hirq, hwin⟩ <;>
    simp [*]

theorem winner_none_iff (s : State) :
    winner s = none ↔ bestTrap s = none ∧ bestIrq s (pendingVectors s) = none := by
  rcases winner_cases s with ⟨u, hbest, hwin⟩ | ⟨hbest, j, hirq, hwin⟩ | ⟨hbest, hirq, hwin⟩ <;>
    simp [*]

/-- An interrupt presented is eligible. -/
theorem eligibleIrq_of_winner {s : State} {k : Nat} (h : winner s = some (.irq k)) : eligibleIrq s k = true :=
  (bestIrq_some ((winner_irq_iff s k).mp h).2).2.1

/-- Settles O42: the first eligible trap, the first eligible interrupt, and nothing eligible. -/
theorem winnerIsTheFirstEligible : Obligations.WinnerIsTheFirstEligible := by
  intro s trap irq
  have htrap (t : Trap) : eligibleTrap s t = true ↔ trap t := eligibleTrap_iff s t
  have hirq (k : Nat) : eligibleIrq s k = true ↔ irq k := by
    rw [eligibleIrq_iff, and_assoc, and_assoc]
    simp only [irq, State.disiInEffect, ← Bool.not_eq_true, ← imp_iff_not_or]
  have noTrap : bestTrap s = none ↔ ∀ t, ¬ trap t := by
    simp only [bestTrap_none, ← Bool.not_eq_true, htrap]
  refine ⟨fun t => ?_, fun k => ?_, ?_⟩
  · simp only [winner_trap_iff, bestTrap_iff, htrap]
  · simp only [winner_irq_iff, noTrap, bestIrq_iff, hirq]
  · simp only [winner_none_iff, noTrap, bestIrq_pending_none, ← Bool.not_eq_true, hirq]

/-! ## What the masks keep back (R168, R169, R175) -/

/-- An eligible interrupt is of a level above the CPU's (R173). -/
theorem cpl_lt_level {s : State} {k : Nat} (h : eligibleIrq s k = true) : s.cpl.toNat < (s.level k).toNat := by
  obtain ⟨-, -, above, -⟩ := (eligibleIrq_iff s k).mp h
  exact above

/-- Without a request of level 1 or more and without an eligible trap the CPU does not wake (R237, D17). -/
theorem wakes_eq_false {s : State} (htrap : ∀ t, eligibleTrap s t = false)
    (hreq : ∀ k, s.req k = true → s.level k = 0#3) : wakes s = false := by
  have quiet : ((pendingVectors s).any fun k => s.req k && decide (s.level k ≠ 0#3)) = false := by
    rw [List.any_eq_false]
    intro k _
    rw [Bool.and_eq_true, decide_eq_true_iff]
    exact fun ⟨hk, hlevel⟩ => hlevel (hreq k hk)
  rw [wakes, quiet, (bestTrap_none s).mpr htrap]
  rfl

/-- Settles O43: no winner, no wake-up, and the flag as software reads it. -/
theorem levelZeroIsDisabled : Obligations.LevelZeroIsDisabled := by
  intro s k hzero
  refine ⟨fun hwin => ?_, fun htrap hother => wakes_eq_false htrap fun j hj => ?_, fun himpl => ?_⟩
  · have above := cpl_lt_level (eligibleIrq_of_winner hwin)
    rw [hzero] at above
    exact Nat.not_lt_zero _ above
  · by_cases hjk : j = k
    · rw [hjk, hzero]
    · rw [hother j hjk] at hj
      cases hj
  · have flagged : (act (.irq k) s).flag k = true := (flag_setFlag k k s).mpr (.inr ⟨rfl, himpl⟩)
    refine ⟨flagged, fun x hx => ?_⟩
    have hlt : k / 16 < 16 := hx ▸ x.isLt
    have stored : ((act (.irq k) s).ifs[x]).getLsbD (k % 16) = true := by
      rw [State.flag, flagAt_of_lt _ hlt] at flagged
      simpa only [Fin.getElem_fin, hx] using flagged
    have implemented : ((act (.irq k) s).dev.flagMask x.val).getLsbD (k % 16) = true := by
      rw [getLsbD_flagMask _ _ (Nat.mod_lt k (by decide)), hx, Nat.div_add_mod]
      exact himpl
    rw [readSfr, BitVec.getLsbD_and, stored, implemented, Bool.and_self]

/-- Settles O44: an eligible source is of a level above the CPU's, at most 7 for an interrupt and 15 for a trap. -/
theorem maskedLevels : Obligations.MaskedLevels := by
  refine fun s => ⟨fun hseven k hwin => ?_, fun hgie heff k hwin => ?_, fun hfifteen => ?_⟩
  · have above := cpl_lt_level (eligibleIrq_of_winner hwin)
    have := (s.level k).isLt
    omega
  · obtain ⟨-, enabled, -⟩ := (eligibleIrq_iff s k).mp (eligibleIrq_of_winner hwin)
    rw [hgie, heff] at enabled
    simp at enabled
  · rw [winner_none_iff, bestTrap_none, bestIrq_pending_none]
    refine ⟨fun t => Bool.eq_false_iff.mpr fun ht => ?_, fun k => Bool.eq_false_iff.mpr fun hk => ?_⟩
    · have above := ((eligibleTrap_iff s t).mp ht).2
      have := (t.level s.dev).isLt
      omega
    · have above := cpl_lt_level hk
      have := (s.level k).isLt
      omega

/-! ## The vector slots (R162 to R165) -/

/-- While `pc` lies in Auxiliary Flash there is one slot for all sources (R165). -/
theorem vectorSlot_auxiliary {s : State} {f : AuxFlash} (h : s.inAuxFlash = some f) (x : Source) :
    vectorSlot x s = some f.vector := by
  rw [vectorSlot, h]

/-- Outside Auxiliary Flash a slot is at VectorBase + 4 + 2n (R163). -/
theorem vectorSlot_table {x : Source} {s : State} (hout : s.inAuxFlash = none)
    (hslot : s.useAivt = true → x ≠ .trap .dmac ∨ s.dev.aivtDmacSlot = true) :
    vectorSlot x s = some (BitVec.ofNat 24 (s.vectorBase + 4 + 2 * x.vector)) := by
  rw [vectorSlot, hout]
  refine if_neg fun hreserved => ?_
  simp only [Bool.and_eq_true, decide_eq_true_iff, Bool.not_eq_true'] at hreserved
  obtain ⟨⟨haivt, hdmac⟩, hunread⟩ := hreserved
  rcases hslot haivt with hother | hread
  · exact hother hdmac
  · rw [hread] at hunread
    cases hunread

/-- The DMAC error trap has no slot in the AIVT (R164, U3). -/
theorem vectorSlot_reserved {s : State} (hout : s.inAuxFlash = none) (haivt : s.useAivt = true)
    (hunread : s.dev.aivtDmacSlot = false) : vectorSlot (.trap .dmac) s = none := by
  rw [vectorSlot, hout, haivt, hunread]
  rfl

/-- Settles O45: Auxiliary Flash, the two tables, and the slot that is reserved. -/
theorem vectorSlotAddress : Obligations.VectorSlotAddress := by
  rintro x s pages aivt rfl haivt
  have selected : s.useAivt = true ↔ aivt := by
    rw [haivt]
    simp only [State.useAivt, State.aivten, Bool.and_eq_true, decide_eq_true_iff, and_assoc]
    rfl
  refine ⟨fun f hf hlow hhigh => vectorSlot_auxiliary ?_ x, fun hout => ?_⟩
  · simp [State.inAuxFlash, hf, hlow, hhigh]
  · have outside : s.inAuxFlash = none := by
      rw [State.inAuxFlash, Option.filter_eq_none_iff]
      intro f hf
      have := hout f hf
      rw [Bool.and_eq_true, decide_eq_true_iff, decide_eq_true_iff]
      omega
    refine ⟨fun hivt => ?_, fun hon hslot => ?_, fun hon hx hunread => ?_⟩
    · have off : ¬ s.useAivt = true := fun h => hivt (selected.mp h)
      rw [vectorSlot_table outside fun h => absurd h off, State.vectorBase, if_neg off, Nat.zero_add]
    · rw [vectorSlot_table outside fun _ => hslot, State.vectorBase, if_pos (selected.mpr hon)]
      rfl
    · subst hx
      have reserved := vectorSlot_reserved outside (selected.mpr hon) hunread
      exact ⟨reserved, fun stalls => by rw [acknowledge, takeException, reserved]⟩

/-- Every source has a vector number of its own (R162). -/
theorem vector_injective {x y : Source} (h : x.vector = y.vector) : x = y := by
  have trap_lt (t : Trap) : t.vector < 8 := by cases t <;> decide
  have place (t : Trap) : trapsByLevel[t.vector]? = some t := by cases t <;> rfl
  have trap_inj {t u : Trap} (htu : t.vector = u.vector) : t = u :=
    Option.some.inj (by rw [← place t, htu, place u])
  cases x with
  | trap t =>
    cases y with
    | trap u => rw [trap_inj h]
    | irq k =>
      have := trap_lt t
      simp only [Source.vector] at h
      omega
  | irq j =>
    cases y with
    | trap u =>
      have := trap_lt u
      simp only [Source.vector] at h
      omega
    | irq k => rw [Nat.add_right_cancel h]

/-- The slot of a source outside Auxiliary Flash, if it has one, is at VectorBase + 4 + 2n. -/
theorem vectorSlot_eq_some {x : Source} {s : State} {slot : ProgAddr} (hout : s.inAuxFlash = none)
    (h : vectorSlot x s = some slot) : slot = BitVec.ofNat 24 (s.vectorBase + 4 + 2 * x.vector) := by
  rw [vectorSlot, hout] at h
  split_ifs at h
  exact (Option.some.inj h).symm

/-- The tables end below the last program address (R44, R163). -/
theorem vectorBase_le (s : State) : s.vectorBase ≤ 0x1FFE * 0x400 := by
  rw [State.vectorBase, Device.bsPages]
  split <;> omega

/-- Settles O46: the slots of different vector numbers lie apart, and no address wraps. -/
theorem vectorSlotsAreUnique : Obligations.VectorSlotsAreUnique := by
  intro x y s slot hout hx hy hslotx hsloty
  have same := (vectorSlot_eq_some hout hslotx).symm.trans (vectorSlot_eq_some hout hsloty)
  have base := vectorBase_le s
  rw [← BitVec.toNat_inj, BitVec.toNat_ofNat, BitVec.toNat_ofNat, Nat.mod_eq_of_lt (by omega),
    Nat.mod_eq_of_lt (by omega)] at same
  exact vector_injective (by omega)

end Sys2Proof.Machine
end

section
/-!
CERTIFICATES. The exception process (R225 to R235): the traps of its two pushes, the frame, the new level, INTTREG, the
vector and the register set, and what it leaves alone.
-/

namespace Sys2Proof.Machine

/-! ## The traps of the two pushes (R81, R90) -/

/-- Two conditions for the same flags. -/
theorem flagIf_or (a b : Bool) (w : Word) :
    (if a then w else 0#16) ||| (if b then w else 0#16) = if a || b then w else 0#16 := by
  cases a
  · exact BitVec.zero_or
  · cases b
    · exact BitVec.or_zero
    · exact BitVec.or_self

/-- The address of a push, or the W15 that it leaves, violates a stack check. -/
def pushBad (s : State) : Bool :=
  stackBad s s.w15 (decide (0xFFFD#16 < s.w15)) || decide (s.w15 + 2 < stackBase)

/-- A push sets STKERR where it violates a stack check and ADDRERR where it raises the address error. -/
theorem push16_intcon1 (v : Word) (s : State) : (push16 v s).intcon1 =
    s.intcon1 ||| (if pushBad s then 0x0004#16 else 0#16) ||| (if pushFaults s then 0x0008#16 else 0#16) := by
  have raised : (push16 v s).intcon1 =
      s.intcon1 ||| (if stackBad s s.w15 (decide (0xFFFD#16 < s.w15)) then 0x0004#16 else 0#16) |||
        (if pushFaults s then 0x0008#16 else 0#16) |||
        (if decide (s.w15 + 2 < stackBase) then 0x0004#16 else 0#16) := by
    simp only [push16, setSp, stackCheck, raiseStackIf_eq, raiseAddressIf, cpuStoreWordIf]
  have regroup (w a b c : Word) : w ||| a ||| c ||| b = w ||| (a ||| b) ||| c := by ac_rfl
  rw [raised, pushBad, ← flagIf_or]
  exact regroup _ _ _ _

/-- The two pushes of an entry violate a stack limit exactly where one of them violates a stack check. -/
theorem pushBad_or_pushBad (v : Word) (s : State) : (pushBad s || pushBad (push16 v s)) = pushesViolate s := by
  have first : pushBad s = true ↔
      (s.w15.toNat < 0x1000 ∨ (s.splimEnabled = true ∧ s.splim.toNat < s.w15.toNat) ∨ 0xFFFD#16 < s.w15) ∨
        s.w15 + 2 < stackBase := by
    rw [pushBad, Bool.or_eq_true, stackBad_iff, decide_eq_true_iff, decide_eq_true_iff]
  have second : pushBad (push16 v s) = true ↔
      ((s.w15 + 2).toNat < 0x1000 ∨ (s.splimEnabled = true ∧ s.splim.toNat < (s.w15 + 2).toNat) ∨
        0xFFFD#16 < s.w15 + 2) ∨ s.w15 + 2 + 2 < stackBase := by
    rw [pushBad, Bool.or_eq_true, stackBad_iff, decide_eq_true_iff, decide_eq_true_iff]
    rfl
  have limits : pushesViolate s = true ↔ (s.w15.toNat < 0x1000 ∨ 0xFFFC ≤ s.w15.toNat) ∨
      (s.splimEnabled = true ∧ s.splim.toNat < s.w15.toNat + 2) := by
    simp only [pushesViolate, Bool.or_eq_true, Bool.and_eq_true, decide_eq_true_eq]
  have up2 : (s.w15 + 2).toNat = (s.w15.toNat + 2) % 65536 := BitVec.toNat_add _ _
  have up4 : (s.w15 + 2 + 2).toNat = ((s.w15 + 2).toNat + 2) % 65536 := BitVec.toNat_add _ _
  have floor : stackBase.toNat = 0x1000 := rfl
  have last : (0xFFFD#16).toNat = 0xFFFD := rfl
  have := s.w15.isLt
  rw [Bool.eq_iff_iff, Bool.or_eq_true, first, second, limits]
  simp only [BitVec.lt_def, floor, last, up4, up2]
  cases s.splimEnabled <;> simp only [Bool.false_eq_true, false_and, true_and, false_or, or_false] <;> omega

/-- One of the two pushes of an entry raises the address error exactly where `pushesFault` says so. -/
theorem pushFaults_or_pushFaults (v : Word) (s : State) :
    (pushFaults s || pushFaults (push16 v s)) = pushesFault s := by
  simp only [pushFaults, accessFaults, pushesFault, push16_w15, push16_dataImpl, push16_dev, bit0_add_two]
  cases s.w15.getLsbD 0 <;> cases s.dev.unimplWriteTraps <;> simp

/-- The two pushes of an entry set STKERR and ADDRERR where they violate a limit and where they fault. -/
theorem pushFrame_intcon1 (s : State) : (pushFrame s).intcon1 =
    s.intcon1 ||| (if pushesViolate s then 0x0004#16 else 0#16) ||| (if pushesFault s then 0x0008#16 else 0#16) := by
  have pushed : (pushFrame s).intcon1 = (push16 (frameHigh s) (push16 (frameLow s) s)).intcon1 := rfl
  have regroup (w a b c d : Word) : w ||| a ||| c ||| b ||| d = w ||| (a ||| b) ||| (c ||| d) := by ac_rfl
  rw [pushed, push16_intcon1, push16_intcon1, ← pushBad_or_pushBad (frameLow s),
    ← pushFaults_or_pushFaults (frameLow s), ← flagIf_or, ← flagIf_or]
  exact regroup _ _ _ _ _

/-- An address error of the two pushes is a hard trap event (R217). -/
theorem pushFrame_hardEvents (s : State) :
    (pushFrame s).hardEvents = { s.hardEvents with addr := s.hardEvents.addr || pushesFault s } := by
  rw [← pushFaults_or_pushFaults (frameLow s), ← Bool.or_assoc]
  rfl

theorem pushFrame_hardHold (s : State) : (pushFrame s).hardHold = (s.hardHold || pushesFault s) := by
  rw [← pushFaults_or_pushFaults (frameLow s), ← Bool.or_assoc]
  rfl

/-- Where one of its pushes faults, the entry writes nothing to data space (R100, D31, U8). -/
theorem pushFrame_data_of_fault {s : State} (h : pushesFault s = true) : (pushFrame s).data = s.data := by
  rw [← pushFaults_or_pushFaults (frameLow s)] at h
  exact if_pos h

/-- On a writable stack no push faults (R81, U10). -/
theorem pushesFault_of_writable {s : State} (h : StackWritable s) : pushesFault s = false := by
  obtain ⟨heven, hfirst, hsecond⟩ := h
  rw [pushesFault, heven, hfirst, hsecond, Bool.not_true, Bool.or_self, Bool.and_false, Bool.or_self]

/-! ## What the exception process leaves (R225 to R235) -/

section
variable (x : Source) (slot : ProgAddr) (s : State)

theorem enter_intcon1 : (enter x slot s).intcon1 = s.intcon1 ||| (if pushesViolate s then 0x0004#16 else 0#16) |||
    (if pushesFault s then 0x0008#16 else 0#16) := by
  simp only [enter, loadVector_intcon1, useSet_intcon1, latchInttreg_intcon1, writeLevel_intcon1, pushFrame_intcon1]
  rfl

/-- The trap acknowledged no longer waits; an address error of the entry's own pushes is a new event (R217, U8). -/
theorem enter_hardEvents : (enter x slot s).hardEvents = { HardEvents.none with addr := pushesFault s } := by
  simp only [enter, loadVector_hardEvents, useSet_hardEvents, latchInttreg_hardEvents, writeLevel_hardEvents,
    pushFrame_hardEvents]
  rfl

theorem enter_hardHold : (enter x slot s).hardHold = pushesFault s := by
  simp only [enter, loadVector_hardHold, useSet_hardHold, latchInttreg_hardHold, writeLevel_hardHold,
    pushFrame_hardHold]
  rfl

end

/-- Settles O50: the traps of the two pushes, and the fields that no part of the process writes. -/
theorem entryKeepsTheRest : Obligations.EntryKeepsTheRest := by
  intro x s t htake
  rcases takeException_cases x s with ⟨slot, -, heq⟩ | ⟨-, heq⟩ <;> rw [heq] at htake <;> cases htake
  refine ⟨enter_intcon1 x slot s, enter_hardHold x slot s, enter_hardEvents x slot s, ?_⟩
  simp

/-- Settles O47: the two words as the frame has them, and the bytes outside their addresses. -/
theorem entryStacksTheFrame : Obligations.EntryStacksTheFrame := by
  intro x s hstack hslot
  obtain ⟨slot, htake⟩ := takeException_of_slotExists hslot
  obtain ⟨hhigh, hlow⟩ := frame_after_enter hstack x slot
  refine ⟨_, htake, enter_w15 x slot s, hlow, hhigh, fun a h0 h1 h2 h3 => ?_⟩
  have stored : (enter x slot s).data =
      storeWord (storeWord s.data s.w15 (frameLow s)) (s.w15 + 2) (frameHigh s) :=
    (enter_data x slot s).trans (pushFrame_data_of_writable hstack)
  have third : s.w15 + 2 + 1 = s.w15 + 3 := BitVec.add_assoc _ _ _
  rw [readByte_of_storeWord _ _ _ _ _ stored h2 (third ▸ h3), memRead_storeWord, if_neg h1, if_neg h0]
  rfl

/-- Settles O48: an odd Stack Pointer makes both pushes fault. -/
theorem entryWithAnOddStackPointer : Obligations.EntryWithAnOddStackPointer := by
  intro x s hodd hslot
  obtain ⟨slot, htake⟩ := takeException_of_slotExists hslot
  have fault : pushesFault s = true := by rw [pushesFault, hodd, Bool.true_or]
  have kept : (enter x slot s).data = s.data := (enter_data x slot s).trans (pushFrame_data_of_fault fault)
  refine ⟨_, htake, enter_w15 x slot s, readByte_congr kept, ?_, ?_, ?_⟩
  · rw [enter_intcon1, fault, if_pos rfl, BitVec.getLsbD_or]
    exact Bool.or_true _
  · rw [enter_hardHold, fault]
  · rw [enter_hardEvents, fault]

/-! ## The new level (R226, R234) -/

theorem extractLsb'_withIpl (w : Word) (v : BitVec 3) : (withIpl w v).extractLsb' 5 3 = v := by
  refine BitVec.eq_of_getLsbD_eq fun i hi => ?_
  have cleared : ∀ i < 3, (0xFF1F#16).getLsbD (5 + i) = false := by decide
  have placed : (v.setWidth 16 <<< 5).getLsbD (5 + i) = v.getLsbD i := by
    have inside : 5 + i < 16 := by omega
    have low : i < 16 := by omega
    simp [BitVec.getLsbD_shiftLeft, inside, low, -BitVec.getLsbD_eq_getElem]
  rw [BitVec.getLsbD_extractLsb', decide_eq_true hi, Bool.true_and, withIpl, BitVec.getLsbD_or, BitVec.getLsbD_and,
    cleared i hi, placed, Bool.and_false, Bool.false_or]

/-- The two pushes leave NSTDIS alone. -/
theorem pushFrame_nstdis (s : State) : (pushFrame s).nstdis = s.nstdis := by
  rw [State.nstdis, pushFrame_intcon1, BitVec.getLsbD_or, BitVec.getLsbD_or]
  cases pushesViolate s <;> cases pushesFault s <;> simp [State.nstdis]

/-- The new level depends on SR, CORCON and NSTDIS only. -/
theorem writeLevel_congr (x : Source) (l : BitVec 4) {s t : State} (hsr : t.sr = s.sr) (hcorcon : t.corcon = s.corcon)
    (hnest : t.nstdis = s.nstdis) : (writeLevel x l t).sr = (writeLevel x l s).sr ∧
      (writeLevel x l t).corcon = (writeLevel x l s).corcon := by
  cases x <;> simp only [writeLevel, hsr, hcorcon, hnest, and_self]

section
variable (slot : ProgAddr) (s : State)

/-- The level that an entry writes in SR and CORCON is that of `writeLevel` on the interrupted state. -/
theorem enter_status (x : Source) : (enter x slot s).sr = (writeLevel x (s.sourceLevel x) s).sr ∧
    (enter x slot s).corcon = (writeLevel x (s.sourceLevel x) s).corcon := by
  have nest := pushFrame_nstdis { s with hardEvents := .none, hardHold := false }
  simp only [enter, loadVector_sr, useSet_sr, latchInttreg_sr, loadVector_corcon, useSet_corcon, latchInttreg_corcon]
  exact writeLevel_congr _ _ (pushFrame_sr _) (pushFrame_corcon _) nest

/-- A trap's level is one of 8 to 15, so IPL3 is its bit 3 (R180). -/
theorem trap_level_bits (d : Device) (t : Trap) :
    (BitVec.ofBool true ++ (t.level d).setWidth 3 : BitVec 4) = t.level d := by
  cases t with
  | genericSoft =>
    rw [Trap.level]
    cases d.gstAtEight <;> rfl
  | _ => simp [Trap.level]

/-- An entry of a trap leaves the CPU at the trap's level (R226). -/
theorem enter_cpl_trap (t : Trap) : (enter (.trap t) slot s).cpl = t.level s.dev := by
  obtain ⟨status, core⟩ := enter_status slot s (.trap t)
  have ipl3 : (enter (.trap t) slot s).ipl3 = true := by
    rw [State.ipl3, core, writeLevel, BitVec.getLsbD_or]
    exact Bool.or_true _
  have ipl : (enter (.trap t) slot s).ipl = (t.level s.dev).setWidth 3 := by
    rw [State.ipl, status]
    exact extractLsb'_withIpl _ _
  rw [State.cpl, ipl3, ipl, trap_level_bits]

/-- An entry of an interrupt leaves IPL at the source's level, or at 7 with NSTDIS set (R226, R234). -/
theorem enter_ipl_irq (k : Nat) : (enter (.irq k) slot s).ipl = if s.nstdis then 7#3 else s.level k := by
  have narrow : ((s.level k).setWidth 4).setWidth 3 = s.level k := by
    rw [BitVec.setWidth_setWidth_of_le _ (by decide), BitVec.setWidth_eq]
  rw [State.ipl, (enter_status slot s (.irq k)).1, writeLevel, extractLsb'_withIpl, State.sourceLevel, narrow]

theorem enter_ipl3_irq (k : Nat) : (enter (.irq k) slot s).ipl3 = s.ipl3 := by
  rw [State.ipl3, (enter_status slot s (.irq k)).2, writeLevel, BitVec.getLsbD_and]
  exact Bool.and_true _

/-- An entry clears SFA (R229). -/
theorem enter_sfa (x : Source) : (enter x slot s).sfa = false := by
  have cleared : (s.corcon &&& 0xFFFB#16).getLsbD 2 = false := by
    rw [BitVec.getLsbD_and]
    exact Bool.and_false _
  rw [State.sfa, (enter_status slot s x).2]
  cases x with
  | trap t =>
    rw [writeLevel, BitVec.getLsbD_or, cleared]
    rfl
  | irq k => exact cleared

end

/-- Settles O49: the level of a trap and of an interrupt, SFA, and the bits that stay. -/
theorem entryRaisesThePriority : Obligations.EntryRaisesThePriority := by
  intro x s hslot
  obtain ⟨slot, htake⟩ := takeException_of_slotExists hslot
  refine ⟨_, htake, ?_, ?_, enter_sfa slot s x, fun i hi => enter_sr_other x slot s hi,
    fun i hsfa hipl3 => enter_corcon_other x slot s hsfa hipl3⟩
  · rintro tr rfl
    exact enter_cpl_trap slot s tr
  · rintro k rfl
    exact ⟨enter_ipl3_irq slot s k, enter_ipl_irq slot s k⟩

/-- After the entry of an interrupt the CPU is at its level or above. -/
theorem level_le_cpl_enter (k : Nat) (slot : ProgAddr) (s : State) :
    (s.level k).toNat ≤ (enter (.irq k) slot s).cpl.toNat := by
  have low : (enter (.irq k) slot s).ipl.toNat ≤ (enter (.irq k) slot s).cpl.toNat := by
    rw [State.cpl, BitVec.toNat_append]
    exact Nat.right_le_or
  refine le_trans ?_ low
  rw [enter_ipl_irq]
  split
  · exact Nat.le_of_lt_succ (s.level k).isLt
  · exact le_rfl

/-- Settles O54: what is eligible is above the CPU's level, and no request is lost. -/
theorem sameLevelDoesNotPreempt : Obligations.SameLevelDoesNotPreempt := by
  intro k s t htake
  rcases takeException_cases (.irq k) s with ⟨slot, -, heq⟩ | ⟨-, heq⟩ <;> rw [heq] at htake <;> cases htake
  refine ⟨fun j hj => ?_, fun j => ?_⟩
  · obtain ⟨-, -, above, -⟩ := (eligibleIrq_iff _ j).mp hj
    rw [State.level, enter_ipc] at above
    exact lt_of_le_of_lt (level_le_cpl_enter k slot s) above
  · simp only [State.req, State.flag, State.enable, enter_dev, enter_ifs, enter_iec]

/-! ## INTTREG, the vector and the register set (R227, R228, R235) -/

/-- An interrupt always has a slot (R163). -/
theorem takeException_irq (k : Nat) (s : State) : ∃ slot, takeException (.irq k) s = .next (enter (.irq k) slot s) :=
  takeException_of_slotExists nofun

/-- Settles O51: the three fields of the latched word. -/
theorem entryLatchesTheInterrupt : Obligations.EntryLatchesTheInterrupt := by
  intro k s hk
  obtain ⟨slot, htake⟩ := takeException_irq k s
  have latched : (enter (.irq k) slot s).inttreg =
      (0#4 ++ (s.level k).setWidth 4 ++ BitVec.ofNat 8 k : BitVec 16) := rfl
  refine ⟨_, htake, ?_, ?_, ?_⟩ <;> rw [latched]
  · rw [BitVec.extractLsb'_append_eq_right, BitVec.toNat_ofNat, Nat.mod_eq_of_lt hk]
  · rw [BitVec.extractLsb'_append_eq_of_le (by decide)]
    exact BitVec.extractLsb'_append_eq_right
  · rw [BitVec.extractLsb'_append_eq_of_le (by decide)]
    exact BitVec.extractLsb'_append_eq_left

/-- An entry loads the word of an implemented slot into the program counter (R228). -/
theorem enter_pc {s : State} {slot : ProgAddr} (h : s.progImpl slot = true) (x : Source) :
    (enter x slot s).pc = memRead unprogrammedWord s.prog slot.toNat &&& 0x7FFFFE#24 := by
  have loaded {t : State} (hdev : t.dev = s.dev) (hprog : t.prog = s.prog) :
      (loadVector slot t).pc = memRead unprogrammedWord s.prog slot.toNat &&& 0x7FFFFE#24 := by
    rw [State.progImpl, ← hdev] at h
    rw [loadVector, progRead, State.progImpl, h, if_pos rfl, hprog]
  simp only [enter]
  exact loaded (by simp) (by simp)

/-- Settles O52: the word of the slot, with the bits that the PC has. -/
theorem entryLoadsTheVector : Obligations.EntryLoadsTheVector := by
  intro x s slot hslot himpl
  refine ⟨enter x slot s, by rw [takeException, hslot], ?_⟩
  rw [enter_pc himpl, and_pcMask]

/-- The register set that an entry uses (R235). -/
theorem enter_wctx (x : Source) (slot : ProgAddr) (s : State) : ∃ t : State, t.dev = s.dev ∧
    (enter x slot s).wctx = (useSet (entrySet x (s.sourceLevel x) s) t).wctx := by
  refine ⟨latchInttreg x (s.sourceLevel x) (writeLevel x (s.sourceLevel x)
    (pushFrame { s with hardEvents := .none, hardHold := false })), by simp, ?_⟩
  simp only [enter, loadVector_wctx]

/-- Settles O53: no alternate sets, the first set, and the second. -/
theorem entrySelectsTheRegisterSet : Obligations.EntrySelectsTheRegisterSet := by
  rintro k s level rfl
  obtain ⟨slot, htake⟩ := takeException_irq k s
  obtain ⟨u, hdev, hset⟩ := enter_wctx (.irq k) slot s
  have selected {set : WSet} (haltW : s.dev.hasAltW = true) (hnest : s.nstdis = false)
      (hmatch : matchingSet s.dev ((s.level k).setWidth 4) = some set) : (enter (.irq k) slot s).wctx = set := by
    have chosen : entrySet (.irq k) (s.sourceLevel (.irq k)) s = some set := by
      rw [entrySet, hnest]
      exact hmatch
    rw [hset, chosen, useSet_wctx_some (by rw [hdev, haltW])]
  refine ⟨_, htake, fun hno => ?_, fun haltW hnest h1 h2 => ?_, fun haltW hnest h2 h1 => ?_⟩
  · rw [hset, useSet_wctx_without_altW (by rw [hdev, hno])]
  · exact selected haltW hnest (matchingSet_alt1 h1 h2)
  · exact selected haltW hnest (matchingSet_alt2 h2 h1)

end Sys2Proof.Machine
end

section
/-!
CERTIFICATES. One boundary (R161): the fetch and the run of a decoded instruction, the trap of a fetch that fails, the
acknowledge with its skid (R224), the hard traps (R198, R217, R218), and the wake-up (R237 to R239).
-/

namespace Sys2Proof.Machine

/-- The environment leaves the device alone (R6). -/
theorem atBoundary_dev (s : State) : s.atBoundary.dev = s.dev :=
  (environment_keeps (P := SameOutside { s with inputs := s.inputs.tail }) (fun a _ _ h => sameOutside_act h a)
    (fun levels _ h => sameOutside_samplePins levels h) _ ⟨rfl, rfl, rfl⟩).1

/-- A step resolves the hard trap events of its boundary, and goes on from there (R161). -/
theorem step_eq (s : State) : step s = resolveHard s.boundary s.atBoundary := rfl

/-! ## The fetch (R24, R161, R200) -/

/-- A decoded instruction of implemented words is run. -/
theorem fetchAndRun_decoded {b : Boundary} {s : State} {i : Instr} (h : Fetches s i) :
    fetchAndRun b s = runInstr b.stalls i s := by
  obtain ⟨hfirst, hsecond, rest, hdecode⟩ := h
  have length : fetchLength b s = i.words := by rw [fetchLength, hdecode]
  have words : fetchable b s = true := by rw [fetchable, length, hfirst, hsecond, Bool.and_self]
  rw [fetchAndRun, if_pos words, hdecode]

/-- Every instruction takes at least one cycle (R6). -/
theorem baseCycles_pos (d : Device) (i : Instr) : 0 < baseCycles d i := by
  cases i <;> simp [baseCycles]

/-- The cycles of every instruction but `DISI` count toward DISICNT (R132). -/
theorem tickInstr_of_ne_disi {i : Instr} (h : ∀ lit14, i ≠ .disi lit14) (n : Nat) (t : State) :
    tickInstr i n t = tick n t := by
  cases i with
  | disi lit14 => exact absurd rfl (h lit14)
  | _ => rfl

/-- Settles O9: the fetch, the meaning and the count of cycles. -/
theorem stepRunsTheDecodedInstruction : Obligations.StepRunsTheDecodedInstruction := by
  intro s t i hfree hfetch hexec
  have fetched : Fetches (fetchState s.atBoundary) i := hfetch
  have ran : step s = .next (tickInstr i (baseCycles s.dev i + s.boundary.stalls) t) := by
    have executed : exec i (beginInstr i.words (fetchState s.atBoundary)) = .next t := hexec
    have device : (fetchState s.atBoundary).dev = s.dev := atBoundary_dev s
    rw [step_of_freeToFetch hfree, fetchAndRun_decoded fetched, runInstr, executed, device]
  refine ⟨_, rfl, Nat.add_pos_left (baseCycles_pos s.dev i) _, fun hother => ?_, ?_⟩
  · rw [ran, tickInstr_of_ne_disi hother]
    rfl
  · rintro ⟨lit14, rfl⟩
    exact ran

/-- A word that begins a `GOTO` begins a two-word instruction, whatever its second word holds (R113). -/
theorem fetchLength_goto {b : Boundary} {s : State} {w : ProgWord} (hw : w ∈ (fetchWords s).head?)
    (htop : topByte w = 0x04#8) (heven : w.getLsbD 0 = false) : fetchLength b s = 2 := by
  obtain rfl : memRead unprogrammedWord s.prog s.pc.toNat = w := Option.some.inj hw
  by_cases high : (memRead unprogrammedWord s.prog (s.pc + 2#24).toNat).extractLsb' 7 17 = 0#17
  · have decoded : decode (fetchWords s) = .ok (.goto _, []) := (TableRow.goto htop heven high rfl).decode_append []
    rw [fetchLength, decoded]
    rfl
  · have refused : decode (fetchWords s) = .error (.gotoSecondWord _) := decode_gotoSecondWord htop heven high []
    rw [fetchLength, refused]

/-- Outside the table an instruction that the inputs give two words has two. -/
theorem fetchLength_twoWords {b : Boundary} {s : State} {f : Foreign} {err : DecodeError} (hf : b.foreign = some f)
    (htwo : f.twoWords = true) (h : decode (fetchWords s) = .error err) : fetchLength b s = 2 := by
  rw [fetchLength, h]
  cases err <;> simp [hf, Foreign.words, htwo]

/-- Without its second word a two-word instruction cannot be fetched. -/
theorem fetchable_of_second {b : Boundary} {s : State} (hlength : fetchLength b s = 2)
    (hsecond : s.progImpl (s.pc + 2#24) = false) : fetchable b s = false := by
  rw [fetchable, secondWordOk, hlength, hsecond]
  exact Bool.and_false _

/-- Settles O11: an unimplemented first word, and an unimplemented second word of a `GOTO` or of an instruction outside
the table. -/
theorem fetchFromUnimplementedAddressTraps : Obligations.FetchFromUnimplementedAddressTraps := by
  intro s hfree hno
  have unfetchable : fetchable s.boundary (fetchState s.atBoundary) = false := by
    rcases hno with hfirst | ⟨hsecond, ⟨w, hw, htop, heven⟩ | ⟨f, err, hf, htwo, herr⟩⟩
    · have first : (fetchState s.atBoundary).progImpl (fetchState s.atBoundary).pc = false := hfirst
      rw [fetchable, first, Bool.false_and]
    · exact fetchable_of_second (fetchLength_goto hw htop heven) hsecond
    · exact fetchable_of_second (fetchLength_twoWords hf htwo herr) hsecond
  rw [step_of_freeToFetch hfree, fetchAndRun, unfetchable, if_neg Bool.false_ne_true, raiseAddressIf_true]
  rfl

/-! ## Acknowledge or one more instruction (R224) -/

/-- With no hard trap event and the CPU running, a step arbitrates. -/
theorem step_arbitrates {s : State} (hnone : hardOutcome s.atBoundary = .none) (hrun : s.atBoundary.power = .run) :
    step s = arbitrate s.boundary s.atBoundary := by
  rw [step_eq, resolveHard, hnone]
  exact if_pos hrun

/-- Settles O57: the branches of the arbitration with a winner. -/
theorem acknowledgeOrOneMoreInstruction : Obligations.AcknowledgeOrOneMoreInstruction := by
  intro s x hnone hrun hwin
  rw [step_arbitrates hnone hrun, ← atBoundary_dev s]
  have apart (hnow : x.hard = true ∨ s.atBoundary.dev.skidMax ≤ s.atBoundary.skid) (hsoft : x.hard = false)
      (hroom : s.atBoundary.skid < s.atBoundary.dev.skidMax) : False :=
    hnow.elim (fun hhard => Bool.false_ne_true (hsoft.symm.trans hhard)) (Nat.not_le_of_lt hroom)
  rcases arbitrate_cases s.boundary s.atBoundary with ⟨hnowin, -⟩ | ⟨y, hy, hbranch⟩
  · rw [hwin] at hnowin
    cases hnowin
  · obtain rfl : x = y := Option.some.inj (hwin.symm.trans hy)
    rcases hbranch with ⟨hnow, heq⟩ | ⟨⟨hsoft, hroom⟩, heq⟩
    · exact ⟨fun _ => heq, fun hsoft hroom => (apart hnow hsoft hroom).elim⟩
    · exact ⟨fun hnow => (apart hnow hsoft hroom).elim, fun _ _ => heq⟩

/-! ## Hard traps (R198, R217, R218) -/

section
variable {s : State} (hhold : s.hardHold = true)
include hhold

/-- One event above the CPU's level is taken (R198). -/
theorem hardOutcome_take {t : Trap} (hone : HardEvents.traps s.hardEvents = [t]) (habove : s.cpl < t.level s.dev) :
    hardOutcome s = .take t := by
  have notBelow : ¬ t.level s.dev < s.cpl := fun h => Nat.lt_asymm h habove
  rw [hardOutcome, if_pos hhold, hone]
  simp only [if_neg notBelow, if_pos habove]

/-- One event at the CPU's level has no outcome (U19). -/
theorem hardOutcome_ownLevel {t : Trap} (hone : HardEvents.traps s.hardEvents = [t]) (hsame : t.level s.dev = s.cpl) :
    hardOutcome s = .ownLevel := by
  have irrefl : ¬ s.cpl < s.cpl := Nat.lt_irrefl _
  rw [hardOutcome, if_pos hhold, hone]
  simp only [hsame, if_neg irrefl]

/-- Two events, or one below the CPU's level, are a conflict (R217). -/
theorem hardOutcome_conflict (h : 2 ≤ (HardEvents.traps s.hardEvents).length ∨
    ∃ t ∈ HardEvents.traps s.hardEvents, (t.level s.dev).toNat < s.cpl.toNat) : hardOutcome s = .conflict := by
  rw [hardOutcome, if_pos hhold]
  match htraps : HardEvents.traps s.hardEvents with
  | [] => simp [htraps] at h
  | [t] =>
    have below : t.level s.dev < s.cpl := by simpa [htraps, BitVec.lt_def] using h
    exact if_pos below
  | _ :: _ :: _ => rfl

end

/-- The traps that have an event are hard traps, and so none is the DMAC error trap. -/
theorem hard_of_mem_traps {e : HardEvents} {t : Trap} (h : t ∈ HardEvents.traps e) : t.hard = true := by
  simp only [HardEvents.traps, List.mem_append, List.mem_ite_nil_right, List.mem_singleton] at h
  rcases h with (⟨-, rfl⟩ | ⟨-, rfl⟩) | ⟨-, rfl⟩ <;> rfl

/-- The CPU runs after a wake-up. -/
theorem wakeIfAsleep_power (s : State) : (wakeIfAsleep s).power = .run := by
  rw [wakeIfAsleep]
  split
  · assumption
  · rfl

/-- A wake-up leaves the registers that an entry stacks, the Stack Pointer and data space alone. -/
theorem wakeIfAsleep_frame (s : State) : ∃ n a d, wakeIfAsleep s =
    { s with power := .run, disicnt := n, disiActive := a, draws := d } := by
  rw [wakeIfAsleep]
  split
  · rename_i hrun
    exact ⟨s.disicnt, s.disiActive, s.draws, by rw [← hrun]⟩
  · exact ⟨_, _, _, rfl⟩

/-- The count of an entry's cycles leaves the CPU's level alone. -/
theorem tickEntry_cpl (stalls : Nat) (s : State) : (tickEntry stalls s).cpl = s.cpl := rfl

/-- Settles O58: the event is taken from the awakened state, through the entry of a trap. -/
theorem hardTrapIsTakenAtOnce : Obligations.HardTrapIsTakenAtOnce := by
  intro s tr hhold hone habove
  have above : s.atBoundary.cpl < tr.level s.atBoundary.dev := by
    rw [atBoundary_dev]
    exact habove
  have notDmac : Source.trap tr ≠ .trap .dmac := by
    have hard : tr.hard = true := hard_of_mem_traps (hone ▸ List.mem_singleton_self tr)
    rintro ⟨⟩
    cases hard
  obtain ⟨u, hu⟩ : ∃ u, u = wakeIfAsleep s.atBoundary := ⟨_, rfl⟩
  obtain ⟨slot, hslot⟩ := vectorSlot_isSome notDmac u
  have taken : step s = .next (tickEntry s.boundary.stalls (enter (.trap tr) slot u)) := by
    rw [step_eq, resolveHard, hardOutcome_take hhold hone above]
    simp only [acknowledge, takeException, ← hu, hslot]
  have running : u.power = .run := by rw [hu, wakeIfAsleep_power]
  obtain ⟨n, a, d, hwake⟩ := wakeIfAsleep_frame s.atBoundary
  rw [hwake] at hu
  have device : u.dev = s.dev := by
    rw [hu]
    exact atBoundary_dev s
  refine ⟨_, taken, ?_, ?_, ?_, ?_, fun hstack => ?_⟩
  · rw [tickEntry_cpl, enter_cpl_trap, device]
  · rw [tickEntry_w15, enter_w15, hu]
  · rw [tickEntry_skid, enter_skid]
  · rw [tickEntry_power, enter_power, running]
  · have writable : StackWritable u := by
      rw [hu]
      exact hstack
    have quiet := pushesFault_of_writable writable
    have stored (w : Word) : readWord (tickEntry s.boundary.stalls (enter (.trap tr) slot u)) w =
        readWord (enter (.trap tr) slot u) w := readWord_congr (tickEntry_data _ _) w
    obtain ⟨hhigh, hlow⟩ := frame_after_enter writable (.trap tr) slot
    have pointer : u.w15 = s.atBoundary.w15 := by rw [hu]
    rw [pointer] at hhigh hlow
    rw [stored, stored, hhigh, hlow, tickEntry_hardHold, enter_hardHold, tickEntry_hardEvents, enter_hardEvents, quiet,
      hu]
    exact ⟨rfl, rfl, rfl, rfl⟩

/-- Settles O59: the conflict and the event without an outcome. -/
theorem hardTrapConflictResets : Obligations.HardTrapConflictResets := by
  intro s hhold
  rw [step_eq, resolveHard, ← atBoundary_dev s]
  refine ⟨fun hconflict => ?_, fun tr hone hsame => ?_⟩
  · rw [hardOutcome_conflict hhold hconflict]
    exact ⟨_, rfl, resetValues_deviceReset .trapConflict s.atBoundary, rfl⟩
  · rw [hardOutcome_ownLevel hhold hone hsame]

/-! ## Wake-up (R237 to R239) -/

/-- A request of level 1 or more, and an eligible trap, wake the CPU (R237, D17). -/
theorem wakes_eq_true {s : State} (h : (∃ t, eligibleTrap s t = true) ∨ ∃ k, s.req k = true ∧ s.level k ≠ 0#3) :
    wakes s = true := by
  rw [wakes, Bool.or_eq_true]
  rcases h with ⟨t, ht⟩ | ⟨k, hk, hlevel⟩
  · refine .inr (Option.isSome_iff_ne_none.mpr fun hnone => ?_)
    rw [(bestTrap_none s).mp hnone t] at ht
    cases ht
  · refine .inl (List.any_eq_true.mpr ⟨k, req_mem_pendingVectors hk, ?_⟩)
    rw [hk, decide_eq_true hlevel]
    rfl

/-- A wake-up leaves DISICNT at most at its old value (U12). -/
theorem wake_disicnt_le (s : State) : (wake s).disicnt.toNat ≤ s.disicnt.toNat := by
  have bounded (x : Nat) : (BitVec.ofNat 14 (x % (s.disicnt.toNat + 1))).toNat ≤ s.disicnt.toNat := by
    rw [BitVec.toNat_ofNat]
    exact (Nat.mod_le _ _).trans (Nat.le_of_lt_succ (Nat.mod_lt _ (Nat.succ_pos _)))
  simp only [wake]
  split
  · exact Nat.zero_le _
  · exact bounded _

/-- Settles O60: nothing wakes the CPU, or something does and the arbitration follows. -/
theorem wakeUpCondition : Obligations.WakeUpCondition := by
  intro s hnone hasleep
  have asleep : step s = powered s.boundary s.atBoundary := by rw [step_eq, resolveHard, hnone]
  rw [asleep, powered, if_neg hasleep]
  refine ⟨fun htrap hreq => ?_, fun hwake => ⟨(wake s.atBoundary).disicnt, wake_disicnt_le _, ?_⟩⟩
  · rw [wakes_eq_false htrap hreq]
    rfl
  · rw [wakes_eq_true hwake]
    rfl

end Sys2Proof.Machine
end

section
/-!
CERTIFICATES. No agent but the software and the Reset clears a flag (R160, R176, R29): the environment, the exception
process and the instructions of the opcode table only set flags.
-/

namespace Sys2Proof.Machine

variable {r s t : State}

/-! ## What sets flags and clears none -/

theorem flagsKept_refl (s : State) : FlagsKept s s := ⟨fun _ => id, fun _ => id, fun _ => id, fun _ => id⟩

/-- A bit stays where further bits are set. -/
theorem getLsbD_or_of_set {w : Word} {i : Nat} (h : w.getLsbD i = true) (bits : Word) :
    (w ||| bits).getLsbD i = true := by
  rw [BitVec.getLsbD_or, h, Bool.true_or]

/-- What both outcomes of a test keep, the choice keeps. -/
theorem flagsKept_ite {b : Prop} [Decidable b] (hs : FlagsKept r s) (ht : FlagsKept r t) :
    FlagsKept r (if b then s else t) := by
  split
  · exact hs
  · exact ht

section
variable (h : FlagsKept r s)
include h

theorem flagsKept_raise1 (bits : Word) : FlagsKept r (raise1 bits s) :=
  { h with intcon1 := fun i hi => getLsbD_or_of_set (h.intcon1 i hi) _ }

theorem flagsKept_raise3 (bits : Word) : FlagsKept r (raise3 bits s) :=
  { h with intcon3 := fun i hi => getLsbD_or_of_set (h.intcon3 i hi) _ }

theorem flagsKept_raiseAddressIf (b : Bool) : FlagsKept r (raiseAddressIf b s) :=
  { h with intcon1 := fun i hi => getLsbD_or_of_set (h.intcon1 i hi) _ }

theorem flagsKept_raiseOscillator : FlagsKept r (raiseOscillator s) :=
  { h with intcon1 := fun i hi => getLsbD_or_of_set (h.intcon1 i hi) _ }

theorem flagsKept_setFlag (k : Nat) : FlagsKept r (setFlag k s) :=
  { h with interrupts := fun j hj => (flag_setFlag k j s).mpr (.inl (h.interrupts j hj)) }

/-- A store in data space touches no flag. -/
theorem flagsKept_data (m : List Host.Cell) : FlagsKept r { s with data := m } := { h with }

/-! ## The environment (R160) -/

/-- No action of an agent but the external Reset clears a flag. -/
theorem flagsKept_act {a : EnvAction} (ha : a ≠ .reset) : FlagsKept r (act a s) := by
  cases a with
  | irq k => exact flagsKept_setFlag h k
  | oscFail => exact flagsKept_raiseOscillator h
  | clockFail v => exact { h with }
  | usbPllLoss => exact flagsKept_raise3 h _
  | auxPllLoss => exact flagsKept_raise3 h _
  | nvmAddressError => exact flagsKept_raise3 h _
  | dmaRead a => exact flagsKept_ite (flagsKept_raise3 h _) h
  | dmaWrite a v coincident =>
    exact flagsKept_ite
      (flagsKept_ite (flagsKept_raise3 h _) (flagsKept_ite (flagsKept_raise1 h _) (flagsKept_data h _))) h
  | usbRead a => exact flagsKept_ite (flagsKept_raise3 h _) h
  | usbWrite a v => exact flagsKept_ite (flagsKept_ite (flagsKept_raise3 h _) (flagsKept_data h _)) h
  | usbBdt start => exact flagsKept_ite (flagsKept_raise3 h _) h
  | reset => exact absurd rfl ha

theorem flagsKept_samplePins (levels : BitVec 5) : FlagsKept r (samplePins levels s) := by
  obtain ⟨b, sampled, flags⟩ := pinEdgesSetTheirFlags levels s
  rw [sampled]
  exact { h with interrupts := fun k hk => (flags k).mpr (.inl (h.interrupts k hk)) }

/-! ## The exception process (R231) -/

theorem flagsKept_enter (x : Source) (slot : ProgAddr) : FlagsKept r (enter x slot s) where
  interrupts k hk := by
    rw [State.flag, enter_ifs]
    exact h.interrupts k hk
  intcon1 i hi := by
    rw [enter_intcon1]
    exact getLsbD_or_of_set (getLsbD_or_of_set (h.intcon1 i hi) _) _
  intcon3 i hi := by
    rw [enter_intcon3]
    exact h.intcon3 i hi
  intcon4 i hi := by
    rw [enter_intcon4]
    exact h.intcon4 i hi

theorem flagsKept_acknowledge {stalls : Nat} {x : Source} (hack : acknowledge stalls x s = .next t) :
    FlagsKept r t := by
  obtain ⟨u, htake, rfl⟩ := acknowledge_next hack
  rcases takeException_cases x s with ⟨slot, -, heq⟩ | ⟨-, heq⟩ <;> rw [heq] at htake <;> cases htake
  exact { flagsKept_enter h x slot with }

/-! ## The instructions of the opcode table -/

theorem flagsKept_setSp (v : Word) : FlagsKept r (setSp v s) :=
  { h with intcon1 := fun i hi => getLsbD_or_of_set (h.intcon1 i hi) _ }

theorem flagsKept_popState : FlagsKept r (popState s) :=
  { h with intcon1 := fun i hi => by rw [getLsbD_popState, h.intcon1 i hi, Bool.true_or, Bool.true_or] }

theorem flagsKept_return {i : Instr} (hi : i = .ret ∨ i = .retfie) (hexec : exec i s = .next t) :
    FlagsKept r t := by
  obtain ⟨sp, target, status, core, set, drawn, heq, -⟩ := exec_return hi s
  rw [heq] at hexec
  cases hexec
  exact { flagsKept_setSp (flagsKept_popState (flagsKept_popState h)) sp with }

theorem flagsKept_jumpTo (target : ProgAddr) : FlagsKept r (jumpTo target s) :=
  flagsKept_raiseAddressIf (s := { s with pc := target }) { h with } _

end

/-! ## The step (R161) -/

/-- Without an external Reset the environment of a boundary clears no flag. -/
theorem flagsKept_atBoundary (h : EnvAction.reset ∉ s.boundary.actions) : FlagsKept s s.atBoundary := by
  have acted : FlagsKept s (environment s.boundary { s with inputs := s.inputs.tail }) :=
    environment_keeps (P := FlagsKept s) (fun a ha _ hu => flagsKept_act hu fun e => h (e ▸ ha))
      (fun levels _ hu => flagsKept_samplePins hu levels) _ { flagsKept_refl s with }
  exact { acted with }

/-- The count of cycles leaves the values of a Reset: a count of 0 stays 0 (R132). -/
theorem resetValues_tickInstr (h : ResetValues t) (i : Instr) (n : Nat) : ResetValues (tickInstr i n t) := by
  have ticked : ResetValues (tick n t) := by
    obtain ⟨hcount, hidle⟩ := h.disicnt
    exact { h with disicnt := ⟨by rw [tick, hcount]; simp, by rw [tick, hidle]; rfl⟩ }
  cases i with
  | disi lit14 => exact { h with }
  | _ => exact ticked

theorem flagsKept_tickInstr (h : FlagsKept r t) (i : Instr) (n : Nat) : FlagsKept r (tickInstr i n t) := by
  cases i <;> exact { h with }

section
variable (h : FlagsKept r s)
include h

/-- An instruction of the table clears no flag, unless it is `RESET`. -/
theorem reset_or_flagsKept_exec {i : Instr} (hexec : exec i s = .next t) : ResetValues t ∨ FlagsKept r t := by
  cases i with
  | nop => cases hexec; exact .inr h
  | goto target => cases hexec; exact .inr (flagsKept_jumpTo h _)
  | ret => exact .inr (flagsKept_return h (.inl rfl) hexec)
  | retfie => exact .inr (flagsKept_return h (.inr rfl) hexec)
  | bra slit16 => cases hexec; exact .inr (flagsKept_jumpTo h _)
  | disi lit14 => cases hexec; exact .inr { h with }
  | reset => cases hexec; exact .inl (resetValues_deviceReset .software s)
  | pwrsav mode => cases hexec; exact .inr { h with }

theorem reset_or_flagsKept_runInstr {stalls : Nat} {i : Instr} (hrun : runInstr stalls i s = .next t) :
    ResetValues t ∨ FlagsKept r t := by
  obtain ⟨u, hexec, rfl⟩ := runInstr_next hrun
  have begun : FlagsKept r (beginInstr i.words s) := { h with }
  exact (reset_or_flagsKept_exec begun hexec).imp (resetValues_tickInstr · i _) (flagsKept_tickInstr · i _)

variable {b : Boundary} (hb : b.foreign = none)
include hb

theorem reset_or_flagsKept_fetchAndRun (hrun : fetchAndRun b s = .next t) : ResetValues t ∨ FlagsKept r t := by
  rcases fetchAndRun_cases b s with ⟨-, i, rest, -, heq⟩ | ⟨-, e, -, ⟨f, hf, -⟩ | ⟨-, w, heq⟩⟩ | ⟨-, heq⟩
  · exact reset_or_flagsKept_runInstr h (heq ▸ hrun)
  · rw [hb] at hf
    cases hf
  · rw [heq] at hrun
    cases hrun
  · rw [heq] at hrun
    cases hrun
    exact .inr (flagsKept_raiseAddressIf h true)

theorem reset_or_flagsKept_arbitrate (harb : arbitrate b s = .next t) : ResetValues t ∨ FlagsKept r t := by
  have skidded (n m : Nat) : FlagsKept r { s with skid := n, draws := m } := { h with }
  rcases arbitrate_cases b s with ⟨-, heq⟩ | ⟨x, -, ⟨-, heq⟩ | ⟨-, heq | heq⟩⟩ <;> rw [heq] at harb
  · exact reset_or_flagsKept_fetchAndRun (skidded 0 s.draws) hb harb
  · exact .inr (flagsKept_acknowledge h harb)
  · exact .inr (flagsKept_acknowledge (skidded s.skid _) harb)
  · exact reset_or_flagsKept_fetchAndRun (skidded _ _) hb harb

theorem reset_or_flagsKept_powered (hpow : powered b s = .next t) : ResetValues t ∨ FlagsKept r t := by
  have awake : FlagsKept r (wake s) := { h with }
  rcases powered_cases b s with ⟨-, heq⟩ | ⟨-, -, heq⟩ | ⟨-, -, heq⟩ <;> rw [heq] at hpow
  · exact reset_or_flagsKept_arbitrate h hb hpow
  · exact reset_or_flagsKept_arbitrate awake hb hpow
  · cases hpow
    exact .inr h

theorem reset_or_flagsKept_resolveHard (hres : resolveHard b s = .next t) : ResetValues t ∨ FlagsKept r t := by
  have awake : FlagsKept r (wakeIfAsleep s) := flagsKept_ite h { h with }
  rcases resolveHard_cases b s with ⟨-, heq⟩ | ⟨tr, -, heq⟩ | ⟨-, heq⟩ | ⟨-, heq⟩ <;> rw [heq] at hres
  · exact reset_or_flagsKept_powered h hb hres
  · exact .inr (flagsKept_acknowledge awake hres)
  · cases hres
    exact .inl (resetValues_deviceReset .trapConflict s)
  · cases hres

end

/-- Settles O8: the environment clears no flag, and what follows resets the device or clears none either. -/
theorem onlySoftwareOrResetClearsAFlag : Obligations.OnlySoftwareOrResetClearsAFlag :=
  fun _ _ hb hreset hstep => reset_or_flagsKept_resolveHard (flagsKept_atBoundary hreset) hb hstep

end Sys2Proof.Machine
end
